-- ==== Sys2Proof/Word.lean ====
section
/-! DEFINITION. The widths of the spec's values (00_scope.md R8, R9): bytes, 16-bit and 32-bit unsigned words. -/

namespace Sys2Proof

/-- A byte: "8 bits, an unsigned integer 0..255" (R9). -/
abbrev Byte := BitVec 8

/-- A 16-bit unsigned value: operand `b`, the parameter fields, three of the packet fields, `MAX_POLL`, `POLLCNT`. -/
abbrev Half := BitVec 16

/-- A 32-bit unsigned value: the operation word (R90), the packet's time field, what the read port answers (R50). -/
abbrev Word := BitVec 32

/-- A 7-bit bus address (R61, R62). -/
abbrev BusAddr := BitVec 7

end Sys2Proof
end

