-- ==== Sys2Proof/Config.lean ====
section
/-! DEFINITION. What an implementation fixes (00_scope.md R6) and the free values of what the spec leaves open.
The constants marked `opaque` have no body: nothing can be proved of their values. -/

namespace Sys2Proof

/-- Which `CHECKSUM_FN` the configuration has (R201, R203): the default instance `SUM8`, or any other total function of the
twelve bytes, of which nothing is assumed (`Config.checksumFn`). DESIGN CHOICE (log 20), safe. -/
inductive ChecksumSel where
  | sum8
  | uninterpreted
deriving DecidableEq, Repr, Inhabited

/-- The parameters of R6, "configuration, not state". They are held as plain data in a field of State that no step changes,
so that a claim about every state is a claim about every configuration. DESIGN CHOICE (log 1), safe. -/
structure Cfg where
  /-- `CMD_REG`, the number of the device's command register on the bus. -/
  cmdReg : Byte
  /-- `CMD_BYTE[k]`, k = 0..8; no property is assumed, not even distinctness (R101). -/
  cmdByte : Vector Byte 9
  /-- `MAX_POLL`; 0 means unbounded. -/
  maxPoll : Half
  /-- `CHECKSUM_FN`. -/
  checksum : ChecksumSel
  /-- `T_CMD` in milliseconds; no rule's result depends on it (R7), nothing reads it (log 18). -/
  tCmd : Nat
  /-- `T_POLL` in milliseconds; no rule's result depends on it (R7), nothing reads it (log 18). -/
  tPoll : Nat
deriving DecidableEq, Repr, Inhabited

/-- One answer of the device and the transport to a bus transaction (R63 to R65, R74): `failure = some c` is `Fail(c)`; where
it is `none`, a `RegWrite` is answered `Ok`, a `RegRead` `Ok(byte)` and a `BlockRead` `Ok(block)`. One answer holds a value for
each kind of transaction, so that an answer fits whichever kind comes next. -/
structure DevAnswer where
  failure : Option Byte
  byte : Byte
  block : List Byte
deriving DecidableEq, Repr, Inhabited

/-- `RXBUF_CAP` (R6): the capacity of the receive buffer, and the longest block an answer carries (R65). -/
def Config.rxbufCap : Nat := 255

/-- The parameters of the machine that comes out of reset: OPEN in the spec (R6, U19), a free value (log 1). -/
opaque Config.params : Cfg

/-- The 7-bit configuration input sampled at the release of the first reset (R262): a free value (log 1). -/
opaque Config.devAddrPins : BusAddr

/-- An instance of `CHECKSUM_FN` of which nothing is known (R201): a free value for every sequence of bytes (log 20). -/
opaque Config.checksumFn : List Byte → Byte

/-- The device as an unconstrained oracle (R78, U13): the n-th answer it gives once the answers held in the state are used up,
a free value (log 4). -/
opaque Config.deviceAnswer : Nat → DevAnswer

/-- The n-th value drawn for a register that holds no value (U9, U10): a free value (log 11, log 12). -/
opaque Config.freeWord : Nat → Word

end Sys2Proof
end

