-- ==== Sys2Proof/Syntax.lean ====
section
/-! DEFINITION. The sixteen operations of 30_encoding.md R94, one constructor per row of spec/opcode_table.json. -/

namespace Sys2Proof

/-- The operations. `a` and `b` are the operand fields "exactly as they stand" (R91); their legal ranges are
`Instr.wellFormed`'s. -/
inductive Instr where
  /-- `SENDCMD a`: a = command index (R136). -/
  | sendcmd (a : Byte)
  /-- `RDCREG` (R137). -/
  | rdcreg
  /-- `ISRDY` (R139). -/
  | isrdy
  /-- `POLL` (R142). -/
  | poll
  /-- `RSTCH a`: a = channel, 0 = A, 1 = B (R150). -/
  | rstch (a : Byte)
  /-- `FETCH a, n`: a = command index, n = expected_len, the word's b[7:0] (R156). -/
  | fetch (a : Byte) (n : Byte)
  /-- `GETERR` (R162). -/
  | geterr
  /-- `CLRBUF` (R171). -/
  | clrbuf
  /-- `PUSHB a`: a = the byte (R172). -/
  | pushb (a : Byte)
  /-- `SETPAR a, b`: a = parameter index, b = value (R174). -/
  | setpar (a : Byte) (b : Half)
  /-- `DECDATA` (R178). -/
  | decdata
  /-- `DECPAR` (R182). -/
  | decpar
  /-- `ENCPAR` (R186). -/
  | encpar
  /-- `CHKSUM` (R204). -/
  | chksum
  /-- `ERRDEC` (R208). -/
  | errdec
  /-- `ERRMAP a`: a = the code byte (R212). -/
  | errmap (a : Byte)
deriving DecidableEq, Repr

end Sys2Proof
end

