-- ==== Sys2Proof/WellFormed.lean ====
section
/-! DEFINITION. The operand ranges of 30_encoding.md R92 (iii), the checks that come after a row of the opcode map is selected. -/

namespace Sys2Proof

/-- "an operand outside its legal range (command index > 8, channel > 1, parameter index > 3)" makes a word illegal (R92). -/
def Instr.wellFormed : Instr → Bool
  | .sendcmd a => a.toNat ≤ 8
  | .rdcreg => true
  | .isrdy => true
  | .poll => true
  | .rstch a => a.toNat ≤ 1
  | .fetch a _ => a.toNat ≤ 8
  | .geterr => true
  | .clrbuf => true
  | .pushb _ => true
  | .setpar a _ => a.toNat ≤ 3
  | .decdata => true
  | .decpar => true
  | .encpar => true
  | .chksum => true
  | .errdec => true
  | .errmap _ => true

end Sys2Proof
end

