-- ==== Sys2Proof/Decode.lean ====
section
/-! DEFINITION. Decoding an operation word (30_encoding.md R90 to R94), then the encoder and the textual form (R120).
Decoding is total: every word is an operation or is refused by name. -/

namespace Sys2Proof

/-- Why a word is illegal (R92). -/
inductive DecodeRefusal where
  /-- (i) "any `opc` not in rule R94". -/
  | unknownOpcode
  /-- (ii) "a word whose must-be-zero bits are not all zero". -/
  | mustBeZeroSet
  /-- (iii) "an operand outside its legal range". -/
  | operandOutOfRange
deriving DecidableEq, Repr

/-- Field `opc` of the operation word, bits 31:24 (R90). -/
def opcField (w : Word) : Byte := w.extractLsb' 24 8

/-- Field `a`, bits 23:16 (R90). -/
def aField (w : Word) : Byte := w.extractLsb' 16 8

/-- Field `b`, bits 15:0 (R90). -/
def bField (w : Word) : Half := w.extractLsb' 0 16

/-- An operation with no operand: `a` and `b` must be 0 (R90). -/
def takesNone (a : Byte) (b : Half) (i : Instr) : Except DecodeRefusal Instr :=
  if a = 0#8 ∧ b = 0#16 then .ok i else .error .mustBeZeroSet

/-- An operation whose only operand is `a`: `b` must be 0 (R90). -/
def takesA (b : Half) (i : Instr) : Except DecodeRefusal Instr :=
  if b = 0#16 then .ok i else .error .mustBeZeroSet

/-- "where an operation uses only `b[7:0]`, `b[15:8]` must be 0" (R90). -/
def takesLowB (b : Half) (i : Instr) : Except DecodeRefusal Instr :=
  if b.extractLsb' 8 8 = 0#8 then .ok i else .error .mustBeZeroSet

/-- The row of R94 a word selects; the operand ranges "come after" (`decodeLegal`). -/
def decode (w : Word) : Except DecodeRefusal Instr :=
  match (opcField w).toNat with
  | 0x01 => takesA (bField w) (.sendcmd (aField w))
  | 0x02 => takesNone (aField w) (bField w) .rdcreg
  | 0x03 => takesNone (aField w) (bField w) .isrdy
  | 0x04 => takesNone (aField w) (bField w) .poll
  | 0x05 => takesA (bField w) (.rstch (aField w))
  | 0x06 => takesLowB (bField w) (.fetch (aField w) ((bField w).extractLsb' 0 8))
  | 0x07 => takesNone (aField w) (bField w) .geterr
  | 0x10 => takesNone (aField w) (bField w) .clrbuf
  | 0x11 => takesA (bField w) (.pushb (aField w))
  | 0x12 => .ok (.setpar (aField w) (bField w))
  | 0x13 => takesNone (aField w) (bField w) .decdata
  | 0x14 => takesNone (aField w) (bField w) .decpar
  | 0x15 => takesNone (aField w) (bField w) .encpar
  | 0x20 => takesNone (aField w) (bField w) .chksum
  | 0x21 => takesNone (aField w) (bField w) .errdec
  | 0x22 => takesA (bField w) (.errmap (aField w))
  | _ => .error .unknownOpcode

/-- R92 whole: "one of the sixteen operations of rule R94 with legal operands or ... illegal". -/
def decodeLegal (w : Word) : Except DecodeRefusal Instr :=
  match decode w with
  | .ok i => if i.wellFormed then .ok i else .error .operandOutOfRange
  | .error r => .error r

/-- The instruction the decoder reads from an instruction whose bits are `w`, as spec/opcode_table.json numbers them; every
bit above `nbits` is 0. The word is presented whole (R66, R90), so it has no byte order. -/
def decodeTableWord (nbits w : Nat) : Option Instr :=
  match decode (BitVec.ofNat 32 (w % 2 ^ nbits)) with
  | .ok i => some i
  | .error _ => none

/-- "The word is `(opc << 24) | (a << 16) | b`" (R120). -/
def pack (opc a : Byte) (b : Half) : Word := opc ++ a ++ b

/-- The word of an operation, from the encodings of R94. -/
def encode : Instr → Word
  | .sendcmd a => pack 0x01#8 a 0#16
  | .rdcreg => pack 0x02#8 0#8 0#16
  | .isrdy => pack 0x03#8 0#8 0#16
  | .poll => pack 0x04#8 0#8 0#16
  | .rstch a => pack 0x05#8 a 0#16
  | .fetch a n => pack 0x06#8 a (0#8 ++ n)
  | .geterr => pack 0x07#8 0#8 0#16
  | .clrbuf => pack 0x10#8 0#8 0#16
  | .pushb a => pack 0x11#8 a 0#16
  | .setpar a b => pack 0x12#8 a b
  | .decdata => pack 0x13#8 0#8 0#16
  | .decpar => pack 0x14#8 0#8 0#16
  | .encpar => pack 0x15#8 0#8 0#16
  | .chksum => pack 0x20#8 0#8 0#16
  | .errdec => pack 0x21#8 0#8 0#16
  | .errmap a => pack 0x22#8 a 0#16

/-- The column `match` of R94. -/
def matchBits : Instr → Word
  | .sendcmd _ => 0x01000000#32
  | .rdcreg => 0x02000000#32
  | .isrdy => 0x03000000#32
  | .poll => 0x04000000#32
  | .rstch _ => 0x05000000#32
  | .fetch _ _ => 0x06000000#32
  | .geterr => 0x07000000#32
  | .clrbuf => 0x10000000#32
  | .pushb _ => 0x11000000#32
  | .setpar _ _ => 0x12000000#32
  | .decdata => 0x13000000#32
  | .decpar => 0x14000000#32
  | .encpar => 0x15000000#32
  | .chksum => 0x20000000#32
  | .errdec => 0x21000000#32
  | .errmap _ => 0x22000000#32

/-- The column `mask` of R94. -/
def maskBits : Instr → Word
  | .sendcmd _ | .rstch _ | .pushb _ | .errmap _ => 0xFF00FFFF#32
  | .fetch _ _ => 0xFF00FF00#32
  | .setpar _ _ => 0xFF000000#32
  | .rdcreg | .isrdy | .poll | .geterr | .clrbuf | .decdata | .decpar | .encpar | .chksum | .errdec => 0xFFFFFFFF#32

/-- The mnemonics of R94. -/
def mnemonic : Instr → String
  | .sendcmd _ => "SENDCMD"
  | .rdcreg => "RDCREG"
  | .isrdy => "ISRDY"
  | .poll => "POLL"
  | .rstch _ => "RSTCH"
  | .fetch _ _ => "FETCH"
  | .geterr => "GETERR"
  | .clrbuf => "CLRBUF"
  | .pushb _ => "PUSHB"
  | .setpar _ _ => "SETPAR"
  | .decdata => "DECDATA"
  | .decpar => "DECPAR"
  | .encpar => "ENCPAR"
  | .chksum => "CHKSUM"
  | .errdec => "ERRDEC"
  | .errmap _ => "ERRMAP"

/-- The operands of the textual form, in its order. -/
def textOperands : Instr → List Nat
  | .sendcmd a | .rstch a | .pushb a | .errmap a => [a.toNat]
  | .fetch a n => [a.toNat, n.toNat]
  | .setpar a b => [a.toNat, b.toNat]
  | .rdcreg | .isrdy | .poll | .geterr | .clrbuf | .decdata | .decpar | .encpar | .chksum | .errdec => []

/-- The textual form of R120: `MNEMONIC`, `MNEMONIC a` or `MNEMONIC a, b`, operands decimal. -/
def assemblyText (i : Instr) : String :=
  match textOperands i with
  | [] => mnemonic i
  | a :: rest => rest.foldl (fun t x => t ++ ", " ++ Nat.repr x) (mnemonic i ++ " " ++ Nat.repr a)

end Sys2Proof
end

