-- ==== Sys2Proof/Machine/State.lean ====
section
/-! DEFINITION. The state of LTI-SEQ as plain data (10_state.md), the reasons a step can stop, and the state after reset.
The registers come first, then the fields that are the model's own: the trace (20_memory.md R76), what the host is about to do,
and what the device is about to answer. -/

namespace Sys2Proof.Machine

/-- The nine device commands, in the order of R100 (command index 0 to 8). -/
inductive Command where
  | wrCmdReg | rstA | rstB | rdCmdReg | rdA | rdB | rdPar | wrPar | wrBPar
deriving DecidableEq, Repr

/-- The channels of RSTCH (R115). -/
inductive Channel where
  | a | b
deriving DecidableEq, Repr

/-- The parameter fields of R41, in the order of their index. -/
inductive ParIndex where
  | settle | track | sample | thresh
deriving DecidableEq, Repr

/-- The five values of `PHASE` (R34); codes 5 to 7 "are never written". -/
inductive Phase where
  | idle | cmdPending | ready | opPending | readyData
deriving DecidableEq, Repr

/-- The result codes of R114; codes 6 and 7 are never written. -/
inductive ResultCode where
  | ok | protocolError | formatError | operationTimedOut | transportError | illegalOperation
deriving DecidableEq, Repr

/-- The closed enumeration `ErrorCode` of R113; codes 5 to 7 are never written. -/
inductive ErrorCode where
  | ok | lowCurrent | currentLimit | threshold | unknown
deriving DecidableEq, Repr

/-- Where inside a poll item the operation stands (R33): the poll's first write is to come, a later attempt's write is to come,
or an attempt's read is to come. Items other than polls do not look at it. DESIGN CHOICE (log 9), safe. -/
inductive Sub where
  | opening | write | read
deriving DecidableEq, Repr

/-- `USTEP` (R33): the 0-based index into the sequence template of R131, and the place inside a poll item. -/
structure Ustep where
  item : Nat
  sub : Sub
deriving DecidableEq, Repr

/-- The RawDataPacket registers (R40). -/
structure Packet where
  time : Word
  voltage : Byte
  current : Half
  temperature : Half
  light : Half
  error : Byte
  checksum : Byte
deriving DecidableEq, Repr

/-- The ParamsPacket registers (R41). -/
structure Params where
  settle : Half
  track : Half
  sample : Half
  thresh : Half
deriving DecidableEq, Repr

/-- The kind of a failed transaction (R74): "one of `W`, `R`, `BR`". -/
inductive BusKind where
  | w | r | br
deriving DecidableEq, Repr

/-- The bus events of R76. -/
inductive BusEvent where
  /-- `W(addr, reg, val)` -/
  | regWrite (addr : BusAddr) (reg val : Byte)
  /-- `R(addr, reg, val)` -/
  | regRead (addr : BusAddr) (reg val : Byte)
  /-- `BR(addr, count, bytes)` -/
  | blockRead (addr : BusAddr) (count : Byte) (bytes : List Byte)
  /-- `BW(addr, bytes)`; "issued by no operation" (R65). -/
  | blockWrite (addr : BusAddr) (bytes : List Byte)
  /-- `F(kind, addr, code)` -/
  | failed (kind : BusKind) (addr : BusAddr) (code : Byte)
deriving DecidableEq, Repr

/-- What the host does between two steps of the block, besides presenting operations (R240); one entry is used a step.
DESIGN CHOICE (log 6), safe. -/
inductive HostAct where
  /-- Nothing: the block takes a step. -/
  | pass
  /-- Raises the abort request (R232). -/
  | abort
  /-- Reads register number `n` (R50). -/
  | read (n : BitVec 12)
  /-- Asserts reset, the 7 address pins carrying `pins` at its release (R260, R262). -/
  | reset (pins : BusAddr)
deriving DecidableEq, Repr

/-- The state. -/
structure State where
  /-- The parameters of R6; no step changes them. -/
  cfg : Cfg
  /-- `DEV_ADDR`, "sampled at reset" (R21, R262). -/
  devAddr : BusAddr
  /-- `BUSY` (R31). -/
  busy : Bool
  /-- `OPREG` (R32). -/
  opreg : Word
  /-- `USTEP` (R33). -/
  ustep : Ustep
  /-- `PHASE` (R34). -/
  phase : Phase
  /-- `POLLCNT` (R45). -/
  pollcnt : Half
  /-- `ABORT_PEND` (R46). -/
  abortPend : Bool
  /-- The `done` pulse of R225: set by the step that completes an operation, clear after every other step (log 16). -/
  done : Bool
  /-- `RESULT` (R47). -/
  result : ResultCode
  /-- `ERRSEEN` (R48). -/
  errseen : Bool
  /-- `TFCODE` (R49). While `RESULT` is not TransportError it is unspecified (U21); the field keeps the last code: DESIGN CHOICE,
  unsafe (log 26). -/
  tfcode : Byte
  /-- `CMDVAL` (R36). -/
  cmdval : Byte
  /-- `CMDVAL_V` (R36). -/
  cmdvalV : Bool
  /-- `RDY` (R37). -/
  rdy : Bool
  /-- `RDY_V` (R37). -/
  rdyV : Bool
  /-- `ERRF` (R38). -/
  errf : BitVec 2
  /-- `ERRC` (R38). -/
  errc : ErrorCode
  /-- `ERR_V` (R38). -/
  errV : Bool
  /-- `CHK_CALC` (R39). -/
  chkCalc : Byte
  /-- `CHK_OK` (R39). -/
  chkOk : Bool
  /-- `CHK_V` (R39). -/
  chkV : Bool
  /-- `PKT_TIME` to `PKT_CHECKSUM` (R40). -/
  pkt : Packet
  /-- `PKT_V` (R40). -/
  pktV : Bool
  /-- `PAR_SETTLE` to `PAR_THRESH` (R41). -/
  par : Params
  /-- `PAR_V`, one bit per field (R41). -/
  parV : BitVec 4
  /-- `RXBUF`, a byte sequence of length `RXLEN` (R42). -/
  rxbuf : List Byte
  /-- `TXBUF[0..7]` (R43). -/
  txbuf : Vector Byte 8
  /-- `TX_V` (R43). -/
  txV : Bool
  /-- The trace (R76), oldest event first; no operation reads it. -/
  trace : List BusEvent
  /-- The operation words the host presents, in order, the first one held until accepted (R220, R240) (log 6). -/
  hostOps : List Word
  /-- What else the host does, one entry a step (log 6). -/
  hostActs : List HostAct
  /-- What the register read port answered last (R50) (log 6). -/
  readData : Word
  /-- The answers the device will give, in order: the device script of R77 (log 4). -/
  dev : List DevAnswer
  /-- Index of the next free answer of the device, once `dev` is used up (log 4). -/
  devIx : Nat
  /-- Index of the next free register value (log 11). -/
  freeIx : Nat
deriving DecidableEq, Repr

/-- Why the machine stops. -/
inductive Fault where
  /-- Raised by the meaning of a sequencer operation when `USTEP` is no position of that operation's sequence template (R131).
  No run reaches such a state (`State.Inv` rules it out); the spec gives it no effect. Safe (log 10). -/
  | illegalPosition
deriving DecidableEq, Repr

/-- Why the model gives no meaning. -/
inductive Refusal where
  /-- The host's fixed name for an instruction without a meaning; no arm of `exec` raises it. Safe. -/
  | notModelled (mnemonic : String)
deriving DecidableEq, Repr

/-- The state after reset (R53, R260, R261): the values R53 states; where it says "unspecified", the values of log 2 and log 3;
an empty trace; nothing presented by the host and no answer of the device scripted (log 4, log 6). -/
def State.reset : State where
  cfg := Config.params
  devAddr := Config.devAddrPins
  busy := false
  opreg := 0#32
  ustep := ⟨0, .opening⟩
  phase := .idle
  pollcnt := 0#16
  abortPend := false
  done := false
  result := .ok
  errseen := false
  tfcode := 0#8
  cmdval := 0#8
  cmdvalV := false
  rdy := false
  rdyV := false
  errf := 0#2
  errc := .ok
  errV := false
  chkCalc := 0#8
  chkOk := false
  chkV := false
  pkt := ⟨0#32, 0#8, 0#16, 0#16, 0#16, 0#8, 0#8⟩
  pktV := false
  par := ⟨0#16, 0#16, 0#16, 0#16⟩
  parV := 0b0000#4
  rxbuf := []
  txbuf := #v[0#8, 0#8, 0#8, 0#8, 0#8, 0#8, 0#8, 0#8]
  txV := false
  trace := []
  hostOps := []
  hostActs := []
  readData := 0#32
  dev := []
  devIx := 0
  freeIx := 0

end Sys2Proof.Machine
end

