-- ==== Sys2Proof/Machine/Operands.lean ====
section
/-! DEFINITION. The operand forms: command, channel and parameter indices (30_encoding.md R91, R100, R115), little-endian fields
(20_memory.md R66), the two packet layouts (30_encoding.md R106, R108) and `CHECKSUM_FN` (42_check_error.md R201, R203). -/

namespace Sys2Proof.Machine

/-- The command a command index names (R100); none for an index above 8 (R92). -/
def commandOf (a : Byte) : Option Command :=
  match a.toNat with
  | 0 => some .wrCmdReg
  | 1 => some .rstA
  | 2 => some .rstB
  | 3 => some .rdCmdReg
  | 4 => some .rdA
  | 5 => some .rdB
  | 6 => some .rdPar
  | 7 => some .wrPar
  | 8 => some .wrBPar
  | _ => none

/-- The command index k of R100. -/
def commandIndex : Command → Fin 9
  | .wrCmdReg => 0
  | .rstA => 1
  | .rstB => 2
  | .rdCmdReg => 3
  | .rdA => 4
  | .rdB => 5
  | .rdPar => 6
  | .wrPar => 7
  | .wrBPar => 8

/-- `CMD_BYTE[k]`, the byte on the wire (R100, R102). -/
def commandByte (c : Cfg) (k : Command) : Byte := c.cmdByte.get (commandIndex k)

/-- The channel operand of RSTCH (R115); none above 1 (R92). -/
def channelOf (a : Byte) : Option Channel :=
  match a.toNat with
  | 0 => some .a
  | 1 => some .b
  | _ => none

/-- The reset command of a channel (R115). -/
def resetCommand : Channel → Command
  | .a => .rstA
  | .b => .rstB

/-- The parameter field an index names (R41); none above 3 (R92). -/
def parIndexOf (a : Byte) : Option ParIndex :=
  match a.toNat with
  | 0 => some .settle
  | 1 => some .track
  | 2 => some .sample
  | 3 => some .thresh
  | _ => none

/-- The index of a parameter field (R41). -/
def parNumber : ParIndex → Nat
  | .settle => 0
  | .track => 1
  | .sample => 2
  | .thresh => 3

/-- Reading `PAR[i]` (R174). -/
def parGet (p : Params) : ParIndex → Half
  | .settle => p.settle
  | .track => p.track
  | .sample => p.sample
  | .thresh => p.thresh

/-- Writing `PAR[i]` (R174). -/
def parSet (p : Params) (i : ParIndex) (x : Half) : Params :=
  match i with
  | .settle => { p with settle := x }
  | .track => { p with track := x }
  | .sample => { p with sample := x }
  | .thresh => { p with thresh := x }

/-- `le16(lo, hi) = lo | (hi << 8)` (R9). -/
def le16 (lo hi : Byte) : Half := lo.setWidth 16 ||| (hi.setWidth 16 <<< 8)

/-- `le32(b0, b1, b2, b3) = b0 | (b1 << 8) | (b2 << 16) | (b3 << 24)` (R9). -/
def le32 (b0 b1 b2 b3 : Byte) : Word :=
  b0.setWidth 32 ||| (b1.setWidth 32 <<< 8) ||| (b2.setWidth 32 <<< 16) ||| (b3.setWidth 32 <<< 24)

/-- `x & 0xFF` (R108). -/
def lowByte (x : Half) : Byte := (x &&& 0xFF#16).setWidth 8

/-- `(x >> 8) & 0xFF`: "shift first, then mask" (R187). -/
def highByte (x : Half) : Byte := ((x >>> 8) &&& 0xFF#16).setWidth 8

/-- `B[i]`, asked only of an i below `len(B)`: every caller has checked the length. -/
def byteAt (B : List Byte) (i : Nat) : Byte := B.getD i 0#8

/-- The length of a data packet (R106). -/
def packetLength : Nat := 13

/-- The length of a parameter packet (R108). -/
def paramsLength : Nat := 8

/-- The data packet's fields, at the byte indices of R106. -/
def packetOf (B : List Byte) : Packet where
  time := le32 (byteAt B 0) (byteAt B 1) (byteAt B 2) (byteAt B 3)
  voltage := byteAt B 4
  current := le16 (byteAt B 5) (byteAt B 6)
  temperature := le16 (byteAt B 7) (byteAt B 8)
  light := le16 (byteAt B 9) (byteAt B 10)
  error := byteAt B 11
  checksum := byteAt B 12

/-- The parameter packet's fields, at the byte indices of R108. -/
def paramsOf (B : List Byte) : Params where
  settle := le16 (byteAt B 0) (byteAt B 1)
  track := le16 (byteAt B 2) (byteAt B 3)
  sample := le16 (byteAt B 4) (byteAt B 5)
  thresh := le16 (byteAt B 6) (byteAt B 7)

/-- The encoded parameter packet: per field, low byte then high byte (R108, R186). -/
def bytesOfParams (p : Params) : Vector Byte 8 :=
  #v[lowByte p.settle, highByte p.settle, lowByte p.track, highByte p.track,
     lowByte p.sample, highByte p.sample, lowByte p.thresh, highByte p.thresh]

/-- `SUM8`: the sum of the bytes "mod 256, the sum taken as unsigned integers" (R203, R214). -/
def sum8 (B : List Byte) : Byte := BitVec.ofNat 8 (B.map BitVec.toNat).sum

/-- `CHECKSUM_FN` of the configuration (R201, R203). -/
def checksumFn (sel : ChecksumSel) (B : List Byte) : Byte :=
  match sel with
  | .sum8 => sum8 B
  | .uninterpreted => Config.checksumFn B

/-- What `CHECKSUM_FN` is applied to: "packet bytes 0..11, every byte before the checksum byte" (R201). -/
def coveredBytes (B : List Byte) : List Byte := B.take 12

end Sys2Proof.Machine
end

