-- ==== Sys2Proof/Machine/Flags.lean ====
section
/-! DEFINITION. The flag computations: the ready bit (40_sequencer.md R138), the error field and its mapping (42_check_error.md
R206, R210), the attempt count (10_state.md R45), the valid bits of the parameters, and the numeric codes of 30_encoding.md
R112 to R114. -/

namespace Sys2Proof.Machine

/-- `rdy(v) = v[5]` (R138, R104). -/
def readyBit (v : Byte) : Bool := v.getLsbD 5

/-- `errfield(e) = (e >> 3) & 0b11` (R206). -/
def errField (e : Byte) : BitVec 2 := ((e >>> 3) &&& 0b11#8).setWidth 2

/-- `errmap(c)` (R210), total on bytes. -/
def errMap (c : Byte) : ErrorCode :=
  match c.toNat with
  | 0 => .ok
  | 1 => .lowCurrent
  | 2 => .currentLimit
  | 3 => .threshold
  | _ => .unknown

/-- `errmap(errfield(e))`, what a raw error byte means (C1, R205). -/
def errCodeOf (e : Byte) : ErrorCode := errMap ((errField e).setWidth 8)

/-- `min(POLLCNT + 1, 65535)` (R140): the count saturates (R45). -/
def bumpCount (c : Half) : Half := if c = 65535#16 then c else c + 1#16

/-- `MAX_POLL != 0 and POLLCNT = MAX_POLL` (R140). -/
def pollExhausted (maxPoll count : Half) : Bool := maxPoll != 0#16 && count == maxPoll

/-- `PAR_V` with bit i set (R174). -/
def setParValid (v : BitVec 4) (i : ParIndex) : BitVec 4 := v ||| (1#4 <<< parNumber i)

/-- `PAR_V = 0b1111`: every field has a value (R186). -/
def allParValid (v : BitVec 4) : Bool := v == 0b1111#4

/-- The code of `PHASE` (R112). -/
def phaseCode : Phase → Nat
  | .idle => 0
  | .cmdPending => 1
  | .ready => 2
  | .opPending => 3
  | .readyData => 4

/-- The code of `ERRC` (R113). -/
def errorCodeNumber : ErrorCode → Nat
  | .ok => 0
  | .lowCurrent => 1
  | .currentLimit => 2
  | .threshold => 3
  | .unknown => 4

/-- The code of `RESULT` (R114). -/
def resultNumber : ResultCode → Nat
  | .ok => 0
  | .protocolError => 1
  | .formatError => 2
  | .operationTimedOut => 3
  | .transportError => 4
  | .illegalOperation => 5

end Sys2Proof.Machine
end

