-- ==== Sys2Proof/Machine/Ops.lean ====
section
/-! DEFINITION. The named operations every meaning is built from: completion with OK and with an error (60_exceptions.md R225,
R226), the invalidation of a register group (10_state.md R22), the transport primitives (20_memory.md R63 to R65, R74), the items
of a sequence template (40_sequencer.md R133, R135, R138, R140), acceptance (60_exceptions.md R224), and what the host does
besides presenting operations (R232, R260, 10_state.md R50). -/

namespace Sys2Proof.Machine

/-! ### Completion -/

/-- `complete` (R225). `PHASE` is left as the operation's items wrote it (R35). Of what R49, R32 and R33 then leave unspecified
(U21), `TFCODE`, `OPREG` and `USTEP` keep what they held: DESIGN CHOICE, unsafe (log 26). -/
def complete (s : State) : State :=
  { s with result := .ok, busy := false, abortPend := false, done := true }

/-- `raise r` (R226): the one way an operation ends with an error; control goes nowhere (R239). `TFCODE`, unspecified unless r is
TransportError (R49, U21), and `OPREG` and `USTEP` keep what they held: DESIGN CHOICE, unsafe (log 26). -/
def raise (r : ResultCode) (s : State) : State :=
  { s with result := r, errseen := true, phase := .idle, busy := false, abortPend := false, done := true }

/-- `raise TransportError(code)` (R226, R230). -/
def raiseTransport (code : Byte) (s : State) : State :=
  { raise .transportError s with tfcode := code }

/-! ### Values of registers that hold no value -/

/-- The j-th free value from here on (log 11, log 12). -/
def freeAt (s : State) (j : Nat) : Word := Config.freeWord (s.freeIx + j)

/-- `RDY_V <- 0` (R138); `RDY` then holds no value (R22). -/
def invalidateRdy (s : State) : State :=
  { s with rdyV := false, rdy := (freeAt s 0).getLsbD 0, freeIx := s.freeIx + 1 }

/-- `ERR_V <- 0` (R38); `ERRF` and `ERRC` then hold no value, `ERRC` being still one of its five codes (R113). -/
def invalidateErr (s : State) : State :=
  { s with
    errV := false, errf := (freeAt s 0).setWidth 2, errc := errMap ((freeAt s 1).setWidth 8), freeIx := s.freeIx + 2 }

/-- `CHK_V <- 0` (R204); `CHK_CALC` and `CHK_OK` then hold no value. -/
def invalidateChk (s : State) : State :=
  { s with
    chkV := false, chkCalc := (freeAt s 0).setWidth 8, chkOk := (freeAt s 1).getLsbD 0, freeIx := s.freeIx + 2 }

/-- `PKT_V <- 0`: "the `PKT_*` values are unspecified" (R180). -/
def invalidatePkt (s : State) : State :=
  { s with
    pktV := false
    pkt :=
      ⟨freeAt s 0, (freeAt s 1).setWidth 8, (freeAt s 2).setWidth 16, (freeAt s 3).setWidth 16, (freeAt s 4).setWidth 16,
        (freeAt s 5).setWidth 8, (freeAt s 6).setWidth 8⟩
    freeIx := s.freeIx + 7 }

/-- `PAR_V <- 0b0000` (R182); the four fields then hold no value. -/
def invalidatePar (s : State) : State :=
  { s with
    parV := 0b0000#4
    par := ⟨(freeAt s 0).setWidth 16, (freeAt s 1).setWidth 16, (freeAt s 2).setWidth 16, (freeAt s 3).setWidth 16⟩
    freeIx := s.freeIx + 4 }

/-- `TX_V <- 0` (R186); `TXBUF` then holds no value. -/
def invalidateTx (s : State) : State :=
  { s with
    txV := false
    txbuf :=
      #v[(freeAt s 0).setWidth 8, (freeAt s 1).setWidth 8, (freeAt s 2).setWidth 8, (freeAt s 3).setWidth 8,
        (freeAt s 4).setWidth 8, (freeAt s 5).setWidth 8, (freeAt s 6).setWidth 8, (freeAt s 7).setWidth 8]
    freeIx := s.freeIx + 8 }

/-- `RXLEN <- 0`: the buffer becomes the empty sequence (R171). -/
def clearRx (s : State) : State := { s with rxbuf := [] }

/-! ### Writing a register or a register group -/

/-- `PHASE <- p` (R34). -/
def setPhase (p : Phase) (s : State) : State := { s with phase := p }

/-- `CMDVAL <- v ; CMDVAL_V <- 1` (R135). -/
def loadCmdval (v : Byte) (s : State) : State := { s with cmdval := v, cmdvalV := true }

/-- `CMDVAL_V <- 0` when the read fails (R36, R135); `CMDVAL` is kept (95_test_vectors.md S4). -/
def dropCmdval (s : State) : State := { s with cmdvalV := false }

/-- `RDY <- rdy(v) ; RDY_V <- 1` (R138). -/
def loadRdy (v : Byte) (s : State) : State := { s with rdy := readyBit v, rdyV := true }

/-- `POLLCNT <- 0` (R140). -/
def clearCount (s : State) : State := { s with pollcnt := 0#16 }

/-- `POLLCNT <- min(POLLCNT + 1, 65535)` (R140). -/
def countAttempt (s : State) : State := { s with pollcnt := bumpCount s.pollcnt }

/-- `ERRF <- f ; ERRC <- c ; ERR_V <- 1` (R38). -/
def loadErr (f : BitVec 2) (c : ErrorCode) (s : State) : State := { s with errf := f, errc := c, errV := true }

/-- `CHK_CALC <- v ; CHK_OK <- ok ; CHK_V <- 1` (R204). -/
def loadChk (v : Byte) (ok : Bool) (s : State) : State := { s with chkCalc := v, chkOk := ok, chkV := true }

/-- The seven packet registers and `PKT_V <- 1` (R178). -/
def loadPkt (p : Packet) (s : State) : State := { s with pkt := p, pktV := true }

/-- The parameter registers and their valid bits (R174, R182). -/
def loadPar (p : Params) (v : BitVec 4) (s : State) : State := { s with par := p, parV := v }

/-- `TXBUF` and `TX_V <- 1` (R186). -/
def loadTx (b : Vector Byte 8) (s : State) : State := { s with txbuf := b, txV := true }

/-- `RXBUF <- B ; RXLEN <- len(B)` (R156). -/
def loadRx (B : List Byte) (s : State) : State := { s with rxbuf := B }

/-- The operation goes on inside poll item n (R33). -/
def gotoSub (n : Nat) (sub : Sub) (s : State) : State := { s with ustep := ⟨n, sub⟩ }

/-- The operation goes on to item n of its template (R131). -/
def gotoItem (n : Nat) (s : State) : State := { s with ustep := ⟨n, .opening⟩ }

/-- The operation words the host presents from here on. -/
def setHostOps (ws : List Word) (s : State) : State := { s with hostOps := ws }

/-- What else the host does from here on. -/
def setHostActs (acts : List HostAct) (s : State) : State := { s with hostActs := acts }

/-! ### The transport -/

/-- The device's answer to the next bus transaction: the next of the script, or a free value (R77, R78; log 4). -/
def nextAnswer (s : State) : DevAnswer :=
  match s.dev with
  | a :: _ => a
  | [] => Config.deviceAnswer s.devIx

/-- The state once that answer is used. -/
def takeAnswer (s : State) : State :=
  match s.dev with
  | _ :: rest => { s with dev := rest }
  | [] => { s with devIx := s.devIx + 1 }

/-- Appends an event to the trace (R76). -/
def emit (e : BusEvent) (s : State) : State := { s with trace := s.trace ++ [e] }

/-- The bytes a block read returns: "a byte sequence of any length 0..255" (R65; log 5). -/
def answeredBlock (a : DevAnswer) : List Byte := a.block.take Config.rxbufCap

/-- `RegWrite(reg, val)` (R63): `Fail(code)` as an error. -/
def regWrite (reg val : Byte) (s : State) : Except Byte Unit × State :=
  match (nextAnswer s).failure with
  | some c => (.error c, emit (.failed .w s.devAddr c) (takeAnswer s))
  | none => (.ok (), emit (.regWrite s.devAddr reg val) (takeAnswer s))

/-- `RegRead(reg) -> byte` (R64). -/
def regRead (reg : Byte) (s : State) : Except Byte Byte × State :=
  match (nextAnswer s).failure with
  | some c => (.error c, emit (.failed .r s.devAddr c) (takeAnswer s))
  | none => (.ok (nextAnswer s).byte, emit (.regRead s.devAddr reg (nextAnswer s).byte) (takeAnswer s))

/-- `BlockRead(count) -> bytes` (R65). -/
def blockRead (count : Byte) (s : State) : Except Byte (List Byte) × State :=
  match (nextAnswer s).failure with
  | some c => (.error c, emit (.failed .br s.devAddr c) (takeAnswer s))
  | none =>
    (.ok (answeredBlock (nextAnswer s)),
      emit (.blockRead s.devAddr count (answeredBlock (nextAnswer s))) (takeAnswer s))

/-! ### The items of a sequence template -/

/-- `check_abort` (R232), then the rest of the step; `onAbort` is what the operation's rule invalidates when it is aborted. -/
def checkAbort (onAbort rest : State → State) (s : State) : State :=
  if s.abortPend then raise .operationTimedOut (onAbort s) else rest s

/-- `send(k)` (R133): one step of the block; the wait that follows has no effect of its own (R276). `onFail` is what the
operation's rule invalidates when the write fails at the transport (R230). -/
def send (k : Command) (onAbort onFail onOk : State → State) (s : State) : State :=
  checkAbort onAbort
    (fun s =>
      match regWrite s.cfg.cmdReg (commandByte s.cfg k) s with
      | (.error c, s') => raiseTransport c (onFail s')
      | (.ok (), s') => onOk s')
    s

/-- `readreg()` (R135): on success `CMDVAL` takes the byte; on a transport failure `CMDVAL_V <- 0`. -/
def readReg (onAbort onFail : State → State) (onOk : Byte → State → State) (s : State) : State :=
  checkAbort onAbort
    (fun s =>
      match regRead s.cfg.cmdReg s with
      | (.error c, s') => raiseTransport c (onFail (dropCmdval s'))
      | (.ok v, s') => onOk v (loadCmdval v s'))
    s

/-- The write half of an attempt (R138, R141); a failure of `rdcreg()` inside an attempt clears `RDY_V` (log 14). -/
def attemptWrite (item : Nat) (cleanup : State → State) (s : State) : State :=
  send .rdCmdReg cleanup (fun s => cleanup (invalidateRdy s)) (gotoSub item .read) s

/-- What follows the byte of an attempt (R138, R140): `RDY`, the count, then return, timeout or another attempt. -/
def attemptResult (item : Nat) (cleanup onReady : State → State) (v : Byte) (s : State) : State :=
  if readyBit v then onReady (countAttempt (loadRdy v s))
  else if pollExhausted s.cfg.maxPoll (bumpCount s.pollcnt) then
    raise .operationTimedOut (cleanup (countAttempt (loadRdy v s)))
  else gotoSub item .write (countAttempt (loadRdy v s))

/-- The read half of an attempt (R138, R140, R141). -/
def attemptRead (item : Nat) (cleanup onReady : State → State) (s : State) : State :=
  readReg cleanup (fun s => cleanup (invalidateRdy s)) (attemptResult item cleanup onReady) s

/-- One step of `poll()` standing as item `item` of a template (R140). `POLLCNT <- 0` "belongs to the step of that poll's first
write" (R141; log 15). `cleanup` is what the operation's rule invalidates when it ends with an error. -/
def pollStep (item : Nat) (cleanup onReady : State → State) (s : State) : State :=
  match s.ustep.sub with
  | .opening => attemptWrite item cleanup (clearCount s)
  | .write => attemptWrite item cleanup s
  | .read => attemptRead item cleanup onReady s

/-- A poll item that comes after a `Cmd` item (RSTCH, FETCH). `check_abort` is performed throughout the `Wait` of that `Cmd` (R132,
R133, R232) and no later line runs (R10): an abort raised there ends the operation before the poll starts, its count unwritten
(R45, R141; log 15). Inside the poll, `check_abort` comes before each transaction as in `pollStep`. -/
def pollAfterWait (item : Nat) (cleanup onReady : State → State) (s : State) : State :=
  checkAbort cleanup (pollStep item cleanup onReady) s

/-- The block read of FETCH with its length check (R156, R157). -/
def blockItem (n : Byte) (s : State) : State :=
  checkAbort clearRx
    (fun s =>
      match blockRead n s with
      | (.error c, s') => raiseTransport c (clearRx s')
      | (.ok B, s') =>
        if B.length ≠ n.toNat then raise .protocolError (clearRx s') else complete (loadRx B s'))
    s

/-! ### Acceptance -/

/-- The register writes of acceptance (R224). -/
def latch (w : Word) (s : State) : State :=
  { s with opreg := w, busy := true, phase := .idle, abortPend := false, ustep := ⟨0, .opening⟩ }

/-- What an operation's own rule does at its acceptance: FETCH empties the buffer (R156). -/
def onAccept (i : Instr) (s : State) : State :=
  match i with
  | .fetch _ _ => clearRx s
  | .sendcmd _ | .rdcreg | .isrdy | .poll | .rstch _ | .geterr | .clrbuf | .pushb _ | .setpar _ _ | .decdata | .decpar
  | .encpar | .chksum | .errdec | .errmap _ => s

/-- Acceptance of a word (R224): latched, then decoded; an illegal word "completes at once" (R92, R229). -/
def accept (w : Word) (s : State) : State :=
  match decodeLegal w with
  | .ok i => onAccept i (latch w s)
  | .error _ => raise .illegalOperation (latch w s)

/-- The block when idle: it accepts the word the host holds, or waits (R220). -/
def acceptNext (s : State) : State :=
  match s.hostOps with
  | [] => s
  | w :: rest => accept w (setHostOps rest s)

/-- `ready` of the operation port: "not BUSY" (R220). -/
def portReady (s : State) : Bool := !s.busy

/-- The state in which word `w` has just been accepted and its first step is next, the host doing nothing else (log 7). -/
def placeWord (w : Word) (s : State) : State :=
  match decodeLegal w with
  | .ok i => onAccept i (latch w (setHostActs [] s))
  | .error _ => latch w (setHostActs [] s)

/-- The `done` pulse lasts one step (R225; log 16). -/
def clearDone (s : State) : State := { s with done := false }

/-! ### What the host does besides presenting operations -/

/-- `ABORT_PEND <- 1` (R46). -/
def setAbort (s : State) : State := { s with abortPend := true }

/-- The abort request (R232): latched while `BUSY = 1`, else "ignored and not remembered". -/
def raiseAbort (s : State) : State := if s.busy then setAbort s else s

/-- Reset of the block (R260 to R263): the state of R53 with `DEV_ADDR` sampled. The parameters, the host and the device are not
the block's (R264), so what they are about to do stays (log 17). -/
def resetBlock (pins : BusAddr) (s : State) : State :=
  { State.reset with
    cfg := s.cfg, devAddr := pins, hostOps := s.hostOps, hostActs := s.hostActs, readData := s.readData, dev := s.dev,
    devIx := s.devIx, freeIx := s.freeIx }

/-- What the register read port has for a number: a value, or "an unspecified value" of a register of the given width. -/
inductive PortValue where
  | value (v : Nat)
  | unspecified (width : Nat)
deriving DecidableEq, Repr

/-- A register with a valid flag: without it, it "holds no value" (R22). -/
def guarded (valid : Bool) (width v : Nat) : PortValue := if valid then .value v else .unspecified width

/-- The host register map (R50). -/
def portValue (s : State) (n : Nat) : PortValue :=
  match n with
  | 0x000 => .value s.busy.toNat
  | 0x001 => .value (phaseCode s.phase)
  | 0x002 => .value (resultNumber s.result)
  | 0x003 => .value s.errseen.toNat
  | 0x004 => .value s.pollcnt.toNat
  | 0x005 => guarded (s.result == .transportError) 8 s.tfcode.toNat
  | 0x006 => guarded s.cmdvalV 8 s.cmdval.toNat
  | 0x007 => .value s.cmdvalV.toNat
  | 0x008 => guarded s.rdyV 1 s.rdy.toNat
  | 0x009 => .value s.rdyV.toNat
  | 0x00A => guarded s.errV 2 s.errf.toNat
  | 0x00B => guarded s.errV 3 (errorCodeNumber s.errc)
  | 0x00C => .value s.errV.toNat
  | 0x00D => guarded s.chkV 8 s.chkCalc.toNat
  | 0x00E => guarded s.chkV 1 s.chkOk.toNat
  | 0x00F => .value s.chkV.toNat
  | 0x010 => .value s.rxbuf.length
  | 0x011 => .value s.pktV.toNat
  | 0x012 => guarded s.pktV 32 s.pkt.time.toNat
  | 0x013 => guarded s.pktV 8 s.pkt.voltage.toNat
  | 0x014 => guarded s.pktV 16 s.pkt.current.toNat
  | 0x015 => guarded s.pktV 16 s.pkt.temperature.toNat
  | 0x016 => guarded s.pktV 16 s.pkt.light.toNat
  | 0x017 => guarded s.pktV 8 s.pkt.error.toNat
  | 0x018 => guarded s.pktV 8 s.pkt.checksum.toNat
  | 0x019 => .value s.parV.toNat
  | 0x01A => guarded (s.parV.getLsbD 0) 16 s.par.settle.toNat
  | 0x01B => guarded (s.parV.getLsbD 1) 16 s.par.track.toNat
  | 0x01C => guarded (s.parV.getLsbD 2) 16 s.par.sample.toNat
  | 0x01D => guarded (s.parV.getLsbD 3) 16 s.par.thresh.toNat
  | 0x01E => .value s.txV.toNat
  | 0x030 => .value s.devAddr.toNat
  | 0x031 => .value s.cfg.cmdReg.toNat
  | 0x032 => .value s.cfg.maxPoll.toNat
  | n =>
    if 0x020 ≤ n ∧ n ≤ 0x027 then guarded s.txV 8 (byteAt s.txbuf.toList (n - 0x020)).toNat
    else if 0x040 ≤ n ∧ n ≤ 0x048 then .value (byteAt s.cfg.cmdByte.toList (n - 0x040)).toNat
    else if 0x100 ≤ n ∧ n ≤ 0x1FE then
      guarded (n - 0x100 < s.rxbuf.length) 8 (byteAt s.rxbuf (n - 0x100)).toNat
    else .unspecified 32

/-- The read port answers `v`, having drawn `used` free values. -/
def answerRead (v : Word) (used : Nat) (s : State) : State := { s with readData := v, freeIx := s.freeIx + used }

/-- A host read (R50): the value "zero-extended to 32 bits"; no side effect on any register. An unspecified value is a free
value of the register's width (log 11). -/
def hostRead (n : BitVec 12) (s : State) : State :=
  match portValue s n.toNat with
  | .value v => answerRead (BitVec.ofNat 32 v) 0 s
  | .unspecified width => answerRead (BitVec.ofNat 32 ((freeAt s 0).toNat % 2 ^ width)) 1 s

/-- One action of the host between two steps of the block (R130, R240). -/
def hostStep (act : HostAct) (s : State) : State :=
  match act with
  | .pass => s
  | .abort => raiseAbort s
  | .read n => hostRead n s
  | .reset pins => resetBlock pins s

end Sys2Proof.Machine
end

