-- ==== Sys2Proof/Machine/Check.lean ====
section
/-! DEFINITION. The checksum validator and the error-code decoder (42_check_error.md): CHKSUM, ERRDEC, ERRMAP. Each completes in
one step and issues no bus transaction. -/

namespace Sys2Proof.Machine

/-- CHKSUM (R204): compares and reports; "it never gates" (R202). -/
def execChksum (s : State) : Host.Outcome State Fault Refusal :=
  if s.rxbuf.length ≠ packetLength then .next (raise .formatError (invalidateChk s))
  else
    .next (complete
      (loadChk (checksumFn s.cfg.checksum (coveredBytes s.rxbuf))
        (checksumFn s.cfg.checksum (coveredBytes s.rxbuf) == byteAt s.rxbuf 12) s))

/-- ERRDEC (R208): the error byte of the last decoded packet. -/
def execErrdec (s : State) : Host.Outcome State Fault Refusal :=
  if s.pktV then .next (complete (loadErr (errField s.pkt.error) (errCodeOf s.pkt.error) s))
  else .next (raise .illegalOperation (invalidateErr s))

/-- ERRMAP (R212): the mapping stage alone, of the whole byte; `ERRF` takes its low 2 bits. -/
def execErrmap (c : Byte) (s : State) : Host.Outcome State Fault Refusal :=
  .next (complete (loadErr (c.setWidth 2) (errMap c) s))

end Sys2Proof.Machine
end

