-- ==== Sys2Proof/Machine/Codec.lean ====
section
/-! DEFINITION. The codec operations (41_codec.md): CLRBUF, PUSHB, SETPAR, DECDATA, DECPAR, ENCPAR. Each "completes in one step
of the block after acceptance", issues no bus transaction and has no point at which an abort is honoured (R170, R232). -/

namespace Sys2Proof.Machine

/-- CLRBUF (R171). -/
def execClrbuf (s : State) : Host.Outcome State Fault Refusal := .next (complete (clearRx s))

/-- PUSHB (R172): refused with IllegalOperation when the buffer holds `RXBUF_CAP` bytes. -/
def execPushb (v : Byte) (s : State) : Host.Outcome State Fault Refusal :=
  if Config.rxbufCap ≤ s.rxbuf.length then .next (raise .illegalOperation s)
  else .next (complete (loadRx (s.rxbuf ++ [v]) s))

/-- SETPAR (R174); an index above 3 is illegal (R92). -/
def execSetpar (a : Byte) (x : Half) (s : State) : Host.Outcome State Fault Refusal :=
  match parIndexOf a with
  | none => .next (raise .illegalOperation s)
  | some i => .next (complete (loadPar (parSet s.par i x) (setParValid s.parV i) s))

/-- DECDATA (R178, R179). -/
def execDecdata (s : State) : Host.Outcome State Fault Refusal :=
  if s.rxbuf.length ≠ packetLength then .next (raise .formatError (invalidatePkt s))
  else .next (complete (loadPkt (packetOf s.rxbuf) s))

/-- DECPAR (R182). -/
def execDecpar (s : State) : Host.Outcome State Fault Refusal :=
  if s.rxbuf.length ≠ paramsLength then .next (raise .formatError (invalidatePar s))
  else .next (complete (loadPar (paramsOf s.rxbuf) 0b1111#4 s))

/-- ENCPAR (R186, R187). -/
def execEncpar (s : State) : Host.Outcome State Fault Refusal :=
  if allParValid s.parV then .next (complete (loadTx (bytesOfParams s.par) s))
  else .next (raise .illegalOperation (invalidateTx s))

end Sys2Proof.Machine
end

