-- ==== Sys2Proof/Machine/Sequencer.lean ====
section
/-! DEFINITION. The sequencer operations (40_sequencer.md): SENDCMD, RDCREG, ISRDY, POLL, RSTCH, FETCH, GETERR. Each runs for
several steps; its meaning at a state is the step that `USTEP` points at in its sequence template (R130, R131). An operand
outside its legal range makes the word illegal (R92, R136, R150, R156): IllegalOperation and nothing else (R229). -/

namespace Sys2Proof.Machine

/-- `rdcreg()` (R137), items 0 and 1 of RDCREG, ISRDY and GETERR: the command write, then the byte read. -/
def rdcregStep (onAbort onFail : State → State) (onByte : Byte → State → State) (s : State) :
    Host.Outcome State Fault Refusal :=
  match s.ustep.item with
  | 0 => .next (send .rdCmdReg onAbort onFail (gotoItem 1) s)
  | 1 => .next (readReg onAbort onFail onByte s)
  | _ => .fault .illegalPosition

/-- SENDCMD (R136). Item 1 is the end of the wait: "the block does not complete an operation whose last item is `Cmd(k)` until
`T_CMD` has elapsed" (R134), and an abort during the wait is honoured (log 8). -/
def execSendcmd (a : Byte) (s : State) : Host.Outcome State Fault Refusal :=
  match commandOf a with
  | none => .next (raise .illegalOperation s)
  | some k =>
    match s.ustep.item with
    | 0 => .next (send k id id (gotoItem 1) s)
    | 1 => .next (checkAbort id complete s)
    | _ => .fault .illegalPosition

/-- RDCREG (R137). -/
def execRdcreg (s : State) : Host.Outcome State Fault Refusal :=
  rdcregStep id id (fun _ s => complete s) s

/-- ISRDY (R139): one attempt (R138); a failed transaction clears `RDY_V`. -/
def execIsrdy (s : State) : Host.Outcome State Fault Refusal :=
  rdcregStep id invalidateRdy (fun v s => complete (loadRdy v s)) s

/-- POLL (R142). -/
def execPoll (s : State) : Host.Outcome State Fault Refusal :=
  match s.ustep.item with
  | 0 => .next (pollStep 0 id complete s)
  | _ => .fault .illegalPosition

/-- RSTCH (R150): write, write, poll, with no poll between the two writes (C3). -/
def execRstch (a : Byte) (s : State) : Host.Outcome State Fault Refusal :=
  match channelOf a with
  | none => .next (raise .illegalOperation s)
  | some ch =>
    match s.ustep.item with
    | 0 => .next (send .wrCmdReg id id (fun s => gotoItem 1 (setPhase .cmdPending s)) s)
    | 1 => .next (send (resetCommand ch) id id (fun s => gotoItem 2 (setPhase .opPending s)) s)
    | 2 => .next (pollAfterWait 2 id (fun s => complete (setPhase .readyData s)) s)
    | _ => .fault .illegalPosition

/-- FETCH (R156): write, poll, write, poll, block read. Every error leaves the buffer empty (R157; log 24). -/
def execFetch (a n : Byte) (s : State) : Host.Outcome State Fault Refusal :=
  match commandOf a with
  | none => .next (raise .illegalOperation s)
  | some k =>
    match s.ustep.item with
    | 0 => .next (send .wrCmdReg clearRx clearRx (fun s => gotoItem 1 (setPhase .cmdPending s)) s)
    | 1 => .next (pollAfterWait 1 clearRx (fun s => gotoItem 2 (setPhase .ready s)) s)
    | 2 => .next (send k clearRx clearRx (fun s => gotoItem 3 (setPhase .opPending s)) s)
    | 3 => .next (pollAfterWait 3 clearRx (fun s => gotoItem 4 (setPhase .readyData s)) s)
    | 4 => .next (blockItem n s)
    | _ => .fault .illegalPosition

/-- GETERR (R162): the error bits of the command register; aborted or failed, `ERR_V <- 0`. -/
def execGeterr (s : State) : Host.Outcome State Fault Refusal :=
  rdcregStep invalidateErr invalidateErr (fun v s => complete (loadErr (errField v) (errCodeOf v) s)) s

end Sys2Proof.Machine
end

