-- ==== Sys2Proof/Machine/Dispatch.lean ====
section
/-! DEFINITION. The meaning of every operation: one arm per constructor of Instr. -/

namespace Sys2Proof.Machine

def exec (i : Instr) (s : State) : Host.Outcome State Fault Refusal :=
  match i with
  | .sendcmd a => Sys2Proof.Machine.execSendcmd a s
  | .rdcreg => Sys2Proof.Machine.execRdcreg s
  | .isrdy => Sys2Proof.Machine.execIsrdy s
  | .poll => Sys2Proof.Machine.execPoll s
  | .rstch a => Sys2Proof.Machine.execRstch a s
  | .fetch a n => Sys2Proof.Machine.execFetch a n s
  | .geterr => Sys2Proof.Machine.execGeterr s
  | .clrbuf => Sys2Proof.Machine.execClrbuf s
  | .pushb a => Sys2Proof.Machine.execPushb a s
  | .setpar a b => Sys2Proof.Machine.execSetpar a b s
  | .decdata => Sys2Proof.Machine.execDecdata s
  | .decpar => Sys2Proof.Machine.execDecpar s
  | .encpar => Sys2Proof.Machine.execEncpar s
  | .chksum => Sys2Proof.Machine.execChksum s
  | .errdec => Sys2Proof.Machine.execErrdec s
  | .errmap a => Sys2Proof.Machine.execErrmap a s

end Sys2Proof.Machine
end

