-- ==== Sys2Proof/Machine/Step.lean ====
section
/-! DEFINITION. One step of the machine: an action of the host where one is due, else a step of the block (R12, R130). -/

namespace Sys2Proof.Machine

/-- A step of the block: with `BUSY = 1`, the next step of the operation in `OPREG` (R130); with `BUSY = 0`, acceptance (R224). A
word in `OPREG` that is no row of the opcode map ends with IllegalOperation (R92, R229; log 22). -/
def blockStep (s : State) : Host.Outcome State Fault Refusal :=
  if s.busy then
    match decode s.opreg with
    | .ok i => exec i s
    | .error _ => .next (raise .illegalOperation s)
  else .next (acceptNext s)

/-- One step. The first entry of `hostActs` says who moves; the block moves when it is `pass` or the list is empty. -/
def step (s : State) : Host.Outcome State Fault Refusal :=
  match s.hostActs with
  | [] => blockStep (clearDone s)
  | .pass :: rest => blockStep (clearDone (setHostActs rest s))
  | .abort :: rest => .next (hostStep .abort (clearDone (setHostActs rest s)))
  | .read n :: rest => .next (hostStep (.read n) (clearDone (setHostActs rest s)))
  | .reset pins :: rest => .next (hostStep (.reset pins) (clearDone (setHostActs rest s)))

/-- `s` with the word `w` (bits above `nbits` zero) accepted and in flight, so that the very next step runs it: there is no
program counter and no program memory (R30); the host presents the word (R220; log 7). -/
def State.withFetchWord (s : State) (nbits w : Nat) : State :=
  placeWord (BitVec.ofNat 32 (w % 2 ^ nbits)) s

end Sys2Proof.Machine
end

