-- ==== Sys2Proof/Machine/Pseudo.lean ====
section
/-! DEFINITION. The pseudo-operations of 30_encoding.md R121: expansions the host issues one after another, each after the previous
completed with OK. They are no operations of the block, which sees the words only; the host's part is beside the state, a list of the
operations it has still to issue (log 6). -/

namespace Sys2Proof.Machine

/-- The pseudo-operations. -/
inductive Pseudo where
  | rstall
  | ldbuf (bytes : List Byte)
  | reada
  | readb
  | readpar
  | ldpar (s t m c : Half)
deriving DecidableEq, Repr

/-- The operations a pseudo-operation stands for (R121). -/
def expandPseudo : Pseudo → List Instr
  | .rstall => [.rstch 0#8, .rstch 1#8]
  | .ldbuf bytes => .clrbuf :: bytes.map .pushb
  | .reada => [.fetch 4#8 13#8, .decdata]
  | .readb => [.fetch 5#8 13#8, .decdata]
  | .readpar => [.fetch 6#8 8#8, .decpar]
  | .ldpar s t m c => [.setpar 0#8 s, .setpar 1#8 t, .setpar 2#8 m, .setpar 3#8 c]

/-- The host presents one operation behind what it already presents (R220). -/
def present (i : Instr) (s : State) : State := setHostOps (s.hostOps ++ [encode i]) s

/-- The host begins a pseudo-operation: its first operation is presented; what is left to issue comes with the state. -/
def beginPseudo (p : Pseudo) (s : State) : List Instr × State :=
  match expandPseudo p with
  | [] => ([], s)
  | i :: rest => (rest, present i s)

/-- What the host, watching every step, does with the rest of an expansion after a step that leaves `s`: it waits while a word is
presented or in flight; if the step completed the operation (the `done` pulse, R225) with OK it presents the next one; after an
error, and after a reset, which abandons the operation "with no completion and no result" (R263), it "stops the expansion" (R121). -/
def continuePseudo (rest : List Instr) (s : State) : List Instr × State :=
  if s.busy ∨ s.hostOps ≠ [] then (rest, s)
  else
    match s.done, s.result, rest with
    | true, .ok, i :: more => (more, present i s)
    | _, _, _ => ([], s)

/-- A step of the machine under a host that is issuing an expansion. -/
def pseudoStep (rest : List Instr) (s : State) : Host.Outcome (List Instr × State) Fault Refusal :=
  match step s with
  | .next t => .next (continuePseudo rest t)
  | .fault f => .fault f
  | .refused r => .refused r

end Sys2Proof.Machine
end

