-- ==== Sys2Proof/Safety.lean ====
section
/-! DEFINITION. What counts as a safe run, in the terms claims use: the invariant of the state, the discipline of the bus events,
and how many steps an operation in flight has left under a bounded poll. -/

namespace Sys2Proof.Machine

/-- The number of positions of an operation's sequence template (R131); SENDCMD has one more, the end of its wait (log 8), and
an operation without bus transactions has one (R170). -/
def itemCount : Instr → Nat
  | .sendcmd _ | .rdcreg | .isrdy | .geterr => 2
  | .rstch _ => 3
  | .fetch _ _ => 5
  | .poll | .clrbuf | .pushb _ | .setpar _ _ | .decdata | .decpar | .encpar | .chksum | .errdec | .errmap _ => 1

/-- Whether an item of a template is a `Poll` (R131). -/
def isPollItem : Instr → Nat → Bool
  | .poll, n => n == 0
  | .rstch _, n => n == 2
  | .fetch _ _, n => n == 1 || n == 3
  | _, _ => false

/-- The value of `PHASE` while an item is to run (R165). -/
def phaseAt : Instr → Nat → Phase
  | .rstch _, 1 => .cmdPending
  | .rstch _, 2 => .opPending
  | .fetch _ _, 1 => .cmdPending
  | .fetch _ _, 2 => .ready
  | .fetch _ _, 3 => .opPending
  | .fetch _ _, 4 => .readyData
  | _, _ => .idle

/-- Whether an operation is a FETCH, which keeps the buffer empty until it completes (R156). -/
def isFetch : Instr → Bool
  | .fetch _ _ => true
  | _ => false

/-- What holds of the operation in flight: its position is one of its template's, `PHASE` is the one of that position (R165), a
bounded poll under way has attempts left (R140), and a FETCH has emptied the buffer (R156). -/
structure FlightOk (i : Instr) (s : State) : Prop where
  item : s.ustep.item < itemCount i
  phase : s.phase = phaseAt i s.ustep.item
  budget : isPollItem i s.ustep.item = true → s.ustep.sub ≠ .opening → s.cfg.maxPoll ≠ 0#16 →
    s.pollcnt.toNat < s.cfg.maxPoll.toNat
  buffer : isFetch i = true → s.rxbuf = []

/-- The invariant of the state. -/
structure State.Inv (s : State) : Prop where
  /-- `RXLEN <= RXBUF_CAP` (R42). -/
  capacity : s.rxbuf.length ≤ Config.rxbufCap
  /-- `ABORT_PEND` is "cleared at every completion" and set only while `BUSY = 1` (R46). -/
  noAbortWhenIdle : s.busy = false → s.abortPend = false
  /-- Between operations `PHASE` is `IDLE`, or `READY_DATA` after a good FETCH or RSTCH (R35). -/
  idlePhase : s.busy = false → s.phase = .idle ∨ (s.phase = .readyData ∧ s.result = .ok)
  /-- `ERRSEEN` is set by every completion that is not OK (R48). -/
  sticky : s.result ≠ .ok → s.errseen = true
  /-- The `done` pulse comes with the fall of `BUSY` (R225). -/
  pulse : s.done = true → s.busy = false
  /-- `ERRC` belongs to `ERRF`, or is `unknown`, which only ERRMAP writes (R209, R212). -/
  errorPair : s.errV = true → s.errc = .unknown ∨ s.errc = errMap (s.errf.setWidth 8)
  /-- An operation in flight is a legal one, at a position of its own. -/
  flight : s.busy = true → ∃ i, decodeLegal s.opreg = .ok i ∧ FlightOk i s

/-- A bus event the block may issue (R62 to R65, R102): `DEV_ADDR` always; register accesses to `CMD_REG` only; writes of command
bytes only; a block of at most 255 bytes; no block write. -/
def EventOk (s : State) : BusEvent → Prop
  | .regWrite addr reg val => addr = s.devAddr ∧ reg = s.cfg.cmdReg ∧ ∃ k, val = commandByte s.cfg k
  | .regRead addr reg _ => addr = s.devAddr ∧ reg = s.cfg.cmdReg
  | .blockRead addr _ bytes => addr = s.devAddr ∧ bytes.length ≤ Config.rxbufCap
  | .blockWrite _ _ => False
  | .failed _ addr _ => addr = s.devAddr

/-- Every event of the trace is one the block may issue. -/
def State.BusDiscipline (s : State) : Prop := ∀ e ∈ s.trace, EventOk s e

/-- Bus transactions a bounded poll has left at most, from the place inside it (R140, R141). -/
def pollLeft (s : State) : Nat :=
  match s.ustep.sub with
  | .opening => 2 * s.cfg.maxPoll.toNat
  | .write => 2 * (s.cfg.maxPoll.toNat - s.pollcnt.toNat)
  | .read => 2 * (s.cfg.maxPoll.toNat - s.pollcnt.toNat) - 1

/-- Steps of the block the operation in flight has left at most, when `MAX_POLL >= 1` (R274). -/
def stepsLeft (i : Instr) (s : State) : Nat :=
  match i with
  | .sendcmd _ | .rdcreg | .isrdy | .geterr => 2 - s.ustep.item
  | .poll => pollLeft s
  | .rstch _ =>
    match s.ustep.item with
    | 0 => 2 + 2 * s.cfg.maxPoll.toNat
    | 1 => 1 + 2 * s.cfg.maxPoll.toNat
    | _ => pollLeft s
  | .fetch _ _ =>
    match s.ustep.item with
    | 0 => 3 + 4 * s.cfg.maxPoll.toNat
    | 1 => pollLeft s + 2 + 2 * s.cfg.maxPoll.toNat
    | 2 => 2 + 2 * s.cfg.maxPoll.toNat
    | 3 => pollLeft s + 1
    | _ => 1
  | .clrbuf | .pushb _ | .setpar _ _ | .decdata | .decpar | .encpar | .chksum | .errdec | .errmap _ => 1

/-- The operations of 40_sequencer.md, which issue bus transactions and honour an abort (R232). -/
def isBusOp : Instr → Bool
  | .sendcmd _ | .rdcreg | .isrdy | .poll | .rstch _ | .fetch _ _ | .geterr => true
  | .clrbuf | .pushb _ | .setpar _ _ | .decdata | .decpar | .encpar | .chksum | .errdec | .errmap _ => false

/-- The transaction of an attempt's half (R141). -/
def attemptKind : Sub → BusKind
  | .opening | .write => .w
  | .read => .r

/-- The kind of bus transaction an operation issues at a position of its template (R131); none at the end of SENDCMD's wait, and
none in an operation without bus transactions. -/
def busKindAt : Instr → Ustep → Option BusKind
  | .sendcmd _, u => if u.item = 0 then some .w else none
  | .rdcreg, u | .isrdy, u | .geterr, u => if u.item = 0 then some .w else if u.item = 1 then some .r else none
  | .poll, u => if u.item = 0 then some (attemptKind u.sub) else none
  | .rstch _, u =>
    if u.item = 0 ∨ u.item = 1 then some .w else if u.item = 2 then some (attemptKind u.sub) else none
  | .fetch _ _, u =>
    if u.item = 0 ∨ u.item = 2 then some .w
    else if u.item = 1 ∨ u.item = 3 then some (attemptKind u.sub)
    else if u.item = 4 then some .br
    else none
  | _, _ => none

/-- Whether a position lies inside an attempt (R138): both items of ISRDY, and every poll item. -/
def inAttempt (i : Instr) (u : Ustep) : Bool := i == .isrdy || isPollItem i u.item

/-- The operation `i` is in flight, no abort is pending, and the host does nothing. -/
structure State.InFlight (i : Instr) (s : State) : Prop where
  busy : s.busy = true
  decoded : decode s.opreg = .ok i
  noAbort : s.abortPend = false
  hostQuiet : s.hostActs = []

/-- The block takes the next step, `acts` being what the host does after it: no entry of `hostActs` is due, or the entry is `pass`
(log 6). -/
def State.BlockMoves (s : State) (acts : List HostAct) : Prop :=
  (s.hostActs = [] ∧ acts = []) ∨ s.hostActs = .pass :: acts

/-- An attempt's two answers, neither failing, the byte read having bit 5 clear. -/
def NotReady (p : DevAnswer × DevAnswer) : Prop :=
  p.1.failure = none ∧ p.2.failure = none ∧ p.2.byte &&& 0x20#8 = 0#8

/-- An attempt's two answers, neither failing, the byte read having bit 5 set. -/
def IsReady (p : DevAnswer × DevAnswer) : Prop :=
  p.1.failure = none ∧ p.2.failure = none ∧ p.2.byte &&& 0x20#8 ≠ 0#8

/-- The device script of a sequence of attempts: a write's answer, then a read's (R141). -/
def attemptScript (ps : List (DevAnswer × DevAnswer)) : List DevAnswer := ps.flatMap fun p => [p.1, p.2]

/-- The events of a sequence of attempts: `W(DEV_ADDR, CMD_REG, CMD_BYTE[3])` then `R(DEV_ADDR, CMD_REG, v)` (R141). -/
def attemptEvents (s : State) (ps : List (DevAnswer × DevAnswer)) : List BusEvent :=
  ps.flatMap fun p =>
    [.regWrite s.devAddr s.cfg.cmdReg (s.cfg.cmdByte.get 3), .regRead s.devAddr s.cfg.cmdReg p.2.byte]

/-- Meanings run one after another, as a host does with operations that complete in one step (R121, R188). -/
def execAll : List Instr → State → Host.Outcome State Fault Refusal
  | [], s => .next s
  | i :: rest, s =>
    match exec i s with
    | .next t => execAll rest t
    | .fault f => .fault f
    | .refused r => .refused r

/-- The registers outside every group of this spec that a data operation may write: parameters, address, operation, host and
device are as they were. -/
def SameSurroundings (s t : State) : Prop :=
  t.cfg = s.cfg ∧ t.devAddr = s.devAddr ∧ t.opreg = s.opreg ∧ t.hostOps = s.hostOps ∧ t.hostActs = s.hostActs ∧
    t.readData = s.readData

/-- `CMDVAL` and its flag are unchanged. -/
def SameCmdval (s t : State) : Prop := t.cmdval = s.cmdval ∧ t.cmdvalV = s.cmdvalV

/-- `RDY` and its flag are unchanged. -/
def SameRdy (s t : State) : Prop := t.rdy = s.rdy ∧ t.rdyV = s.rdyV

/-- `ERRF`, `ERRC` and their flag are unchanged. -/
def SameErr (s t : State) : Prop := t.errf = s.errf ∧ t.errc = s.errc ∧ t.errV = s.errV

/-- `CHK_CALC`, `CHK_OK` and their flag are unchanged. -/
def SameChk (s t : State) : Prop := t.chkCalc = s.chkCalc ∧ t.chkOk = s.chkOk ∧ t.chkV = s.chkV

/-- The packet registers and their flag are unchanged. -/
def SamePkt (s t : State) : Prop := t.pkt = s.pkt ∧ t.pktV = s.pktV

/-- The parameter registers and their flags are unchanged. -/
def SamePar (s t : State) : Prop := t.par = s.par ∧ t.parV = s.parV

/-- `TXBUF` and its flag are unchanged. -/
def SameTx (s t : State) : Prop := t.txbuf = s.txbuf ∧ t.txV = s.txV

end Sys2Proof.Machine
end

