-- ==== Sys2Proof/Certificates/Slice0/Obligations.lean ====
section
/-! DEFINITION. What the provers are to settle about the model, each statement with the rule of spec/ it formalises. A step of the
block is `exec` at the position `USTEP` points at; statements about whole operations run the machine (`Host.Core.run`).
Where a next state is given exactly, a register that U21 leaves unspecified in it keeps what its field held: log 26. -/

open Sys2Proof Sys2Proof.Machine

/-! ### Decoding and the encoder -/

/-- R94: words written out from the opcode map, one per operation, decode to it. -/
def Obligations.SpecWordsDecode : Prop :=
  decode 0x01010000#32 = .ok (.sendcmd 1#8) ∧ decode 0x02000000#32 = .ok .rdcreg ∧
  decode 0x03000000#32 = .ok .isrdy ∧ decode 0x04000000#32 = .ok .poll ∧
  decode 0x05010000#32 = .ok (.rstch 1#8) ∧ decode 0x0604000D#32 = .ok (.fetch 4#8 13#8) ∧
  decode 0x07000000#32 = .ok .geterr ∧ decode 0x10000000#32 = .ok .clrbuf ∧
  decode 0x11640000#32 = .ok (.pushb 0x64#8) ∧ decode 0x120103E8#32 = .ok (.setpar 1#8 1000#16) ∧
  decode 0x13000000#32 = .ok .decdata ∧ decode 0x14000000#32 = .ok .decpar ∧
  decode 0x15000000#32 = .ok .encpar ∧ decode 0x20000000#32 = .ok .chksum ∧
  decode 0x21000000#32 = .ok .errdec ∧ decode 0x22020000#32 = .ok (.errmap 2#8)

/-- R90, R94: each instruction has one word, and a word decodes to an instruction exactly when it is that instruction's. -/
def Obligations.DecodeExactlyInvertsEncode : Prop :=
  ∀ (w : Word) (i : Instr), decode w = .ok i ↔ encode i = w

/-- R94: the columns `match` and `mask` say which words select which row. -/
def Obligations.RowsSelectedByMatchAndMask : Prop :=
  (∀ (w : Word) (i : Instr), decode w = .ok i → w &&& maskBits i = matchBits i) ∧
  (∀ (w : Word) (i : Instr), w &&& maskBits i = matchBits i → ∃ j, decode w = .ok j ∧ mnemonic j = mnemonic i)

/-- R92: the three classes of illegal words, and the legal words. -/
def Obligations.IllegalWordsClassified : Prop :=
  (∀ w : Word, decodeLegal w = .error .unknownOpcode ↔
    (opcField w).toNat ∉ [1, 2, 3, 4, 5, 6, 7, 0x10, 0x11, 0x12, 0x13, 0x14, 0x15, 0x20, 0x21, 0x22]) ∧
  (∀ w : Word, decodeLegal w = .error .mustBeZeroSet ↔
    (opcField w).toNat ∈ [1, 2, 3, 4, 5, 6, 7, 0x10, 0x11, 0x12, 0x13, 0x14, 0x15, 0x20, 0x21, 0x22] ∧
      ∀ i, w &&& maskBits i ≠ matchBits i) ∧
  (∀ w : Word, decodeLegal w = .error .operandOutOfRange ↔
    ∃ a : Byte, (8 < a.toNat ∧ (w = encode (.sendcmd a) ∨ ∃ n, w = encode (.fetch a n))) ∨
      (1 < a.toNat ∧ w = encode (.rstch a)) ∨ (3 < a.toNat ∧ ∃ b, w = encode (.setpar a b))) ∧
  (∀ (w : Word) (i : Instr), decodeLegal w = .ok i ↔ i.wellFormed = true ∧ encode i = w)

/-- R121, R263: the pseudo-operations by the words of their expansions, and how the host, watching every step (log 6), goes on with
one: it waits while a word is presented or in flight, issues the next operation if the step completed the one before with OK (the
`done` pulse, R225; log 16), and stops the expansion after an error, and after a reset in the middle of an operation. -/
def Obligations.PseudoOperationsExpand : Prop :=
  (expandPseudo .rstall).map encode = [0x05000000#32, 0x05010000#32] ∧
  (expandPseudo .reada).map encode = [0x0604000D#32, 0x13000000#32] ∧
  (expandPseudo .readb).map encode = [0x0605000D#32, 0x13000000#32] ∧
  (expandPseudo .readpar).map encode = [0x06060008#32, 0x14000000#32] ∧
  (∀ bytes : List Byte, expandPseudo (.ldbuf bytes) = .clrbuf :: bytes.map .pushb) ∧
  (∀ s t m c : Half,
    expandPseudo (.ldpar s t m c) = [.setpar 0#8 s, .setpar 1#8 t, .setpar 2#8 m, .setpar 3#8 c]) ∧
  (∀ (rest : List Instr) (s : State),
    ((s.busy = true ∨ s.hostOps ≠ []) → continuePseudo rest s = (rest, s)) ∧
    (s.busy = false → s.hostOps = [] → (s.result ≠ .ok ∨ s.done = false ∨ rest = []) → continuePseudo rest s = ([], s)) ∧
    (∀ i more, s.busy = false → s.hostOps = [] → s.result = .ok → s.done = true → rest = i :: more →
      continuePseudo rest s = (more, { s with hostOps := [encode i] }))) ∧
  (∀ (rest : List Instr) (s : State) (pins : BusAddr) (acts : List HostAct),
    s.hostActs = .reset pins :: acts → s.hostOps = [] → ∃ t, pseudoStep rest s = .next ([], t) ∧ t.hostOps = [])

/-! ### Steps, acceptance, completion -/

/-- R130: with an operation in flight and the host quiet, a step of the machine is `exec` of the operation decoded from `OPREG`;
likewise after the host's entry `pass`. That the `done` pulse (R225) ends at the next step is the model's choice (log 16), and so is
the entry `pass` (log 6). -/
def Obligations.StepRunsTheDecodedOperation : Prop :=
  ∀ (s : State) (i : Instr), s.busy = true → decode s.opreg = .ok i →
    (s.hostActs = [] → step s = exec i { s with done := false }) ∧
    (∀ rest, s.hostActs = .pass :: rest → step s = exec i { s with hostActs := rest, done := false })

/-- The model's choice (log 7): a word placed in flight is run by the very next step (`done`: log 16). -/
def Obligations.PlacedWordRunsNext : Prop :=
  ∀ (s : State) (w : Word) (i : Instr), decodeLegal w = .ok i →
    step (s.withFetchWord 32 w.toNat) =
      exec i { s with
        opreg := w, busy := true, phase := .idle, abortPend := false, ustep := ⟨0, .opening⟩, hostActs := [],
        done := false, rxbuf := if isFetch i then [] else s.rxbuf }

/-- R224, R156: what the acceptance of a legal word writes, and that it writes nothing else (`done` aside, log 16; the host's
entry `pass`: log 6).
Model's choice (log 26): `TFCODE` (U21) keeps what it held while `RESULT` is not TransportError. -/
def Obligations.AcceptanceOfALegalWord : Prop :=
  ∀ (s : State) (w : Word) (i : Instr) (rest : List Word) (acts : List HostAct),
    s.BlockMoves acts → s.busy = false → s.hostOps = w :: rest → i.wellFormed = true → encode i = w →
    step s = .next { s with
      hostActs := acts, hostOps := rest, opreg := w, busy := true, phase := .idle, abortPend := false, ustep := ⟨0, .opening⟩, done := false,
      rxbuf := if isFetch i then [] else s.rxbuf }

/-- R92, R229: an illegal word is accepted, completes at once with IllegalOperation, issues no bus transaction and changes no data
register (`USTEP` and `done`: log 9, log 16; that the step of its acceptance completes it: log 22; the host's entry `pass`: log 6).
Model's choice (log 26): `TFCODE` (U21) keeps what it held. -/
def Obligations.AcceptanceOfAnIllegalWord : Prop :=
  ∀ (s : State) (w : Word) (rest : List Word) (acts : List HostAct),
    s.BlockMoves acts → s.busy = false → s.hostOps = w :: rest → (∀ i : Instr, i.wellFormed = true → encode i ≠ w) →
    step s = .next { s with
      hostActs := acts, hostOps := rest, opreg := w, busy := false, phase := .idle, abortPend := false, ustep := ⟨0, .opening⟩, done := true,
      result := .illegalOperation, errseen := true }

/-- R223: while `BUSY = 1` no word is accepted, whatever step is taken. -/
def Obligations.BusyAcceptsNoWord : Prop :=
  ∀ s t : State, s.busy = true → step s = .next t → t.hostOps = s.hostOps

/-- R220: the block idles while the host presents nothing (`done`: log 16; the host's entry `pass`: log 6).
Model's choice (log 26): `TFCODE`, `OPREG` and `USTEP` (U21) keep what they held. -/
def Obligations.IdleBlockWaits : Prop :=
  ∀ (s : State) (acts : List HostAct), s.BlockMoves acts → s.busy = false → s.hostOps = [] →
    step s = .next { s with hostActs := acts, done := false }

/-- R35: what `PHASE` was before an acceptance makes no difference (the host's entry `pass`: log 6). -/
def Obligations.AcceptanceForgetsPhase : Prop :=
  ∀ (s : State) (p : Phase) (acts : List HostAct), s.BlockMoves acts → s.busy = false → s.hostOps ≠ [] →
    step { s with phase := p } = step s

/-- R225, R226: every fall of `BUSY` that no reset causes is a completion, with OK or with an error (`done`: log 16).
Model's choice (log 26): `TFCODE` (U21) keeps what it held at a result that is not TransportError. -/
def Obligations.FallOfBusyIsACompletion : Prop :=
  ∀ s t : State, s.busy = true → step s = .next t → t.busy = false → (∀ p rest, s.hostActs ≠ .reset p :: rest) →
    t.abortPend = false ∧ t.done = true ∧ (t.result = .ok → t.errseen = s.errseen) ∧
      (t.result ≠ .ok → t.errseen = true ∧ t.phase = .idle) ∧
      (t.result ≠ .transportError → t.tfcode = s.tfcode)

/-- R234: which operation can end with which result, and on what ground; the words that are illegal for their zero bits never come
into flight (R92). -/
def Obligations.OperationResults : Prop :=
  ∀ (s t : State) (i : Instr), s.busy = true → exec i s = .next t → t.busy = false →
    (t.result = .protocolError → ∃ a n, i = .fetch a n ∧ s.ustep.item = 4 ∧ (nextAnswer s).failure = none ∧
      (answeredBlock (nextAnswer s)).length ≠ n.toNat) ∧
    (t.result = .formatError →
      ((i = .decdata ∨ i = .chksum) ∧ s.rxbuf.length ≠ 13) ∨ (i = .decpar ∧ s.rxbuf.length ≠ 8)) ∧
    (t.result = .operationTimedOut → isBusOp i = true ∧
      (s.abortPend = true ∨ (isPollItem i s.ustep.item = true ∧ s.ustep.sub = .read ∧ s.cfg.maxPoll ≠ 0#16))) ∧
    (t.result = .transportError → ∃ k c, busKindAt i s.ustep = some k ∧ (nextAnswer s).failure = some c) ∧
    (t.result = .illegalOperation →
      i.wellFormed = false ∨ ((∃ v, i = .pushb v) ∧ 255 ≤ s.rxbuf.length) ∨ (i = .encpar ∧ s.parV ≠ 0b1111#4) ∨
        (i = .errdec ∧ s.pktV = false))

/-- R229, R92: an operand outside its legal range ends SENDCMD, RSTCH, FETCH and SETPAR with IllegalOperation and nothing else.
R92 and R229 say so of a word as it is accepted; that `exec` of such an operation found in flight, at whatever position, ends so
too is the model's reading (log 22), and no run that accepts its words through the port reaches it.
Model's choice (log 26): `TFCODE`, `OPREG` and `USTEP` (U21) keep what they held as the operation ends. -/
def Obligations.OutOfRangeOperandIsIllegal : Prop :=
  ∀ (s : State) (i : Instr), i.wellFormed = false →
    exec i s = .next { s with
      result := .illegalOperation, errseen := true, phase := .idle, busy := false, abortPend := false, done := true }

/-! ### The sequencer, step by step -/

/-- R136, R133: SENDCMD's write of the command byte, then the end of its wait (log 8).
Model's choice (log 26): `TFCODE`, `OPREG` and `USTEP` (U21) keep what they held as the operation ends. -/
def Obligations.SendcmdWritesThenCompletes : Prop :=
  ∀ (s : State) (a : Byte) (h : a.toNat < 9), s.abortPend = false →
    (s.ustep.item = 0 → (nextAnswer s).failure = none →
      exec (.sendcmd a) s = .next { takeAnswer s with
        trace := s.trace ++ [.regWrite s.devAddr s.cfg.cmdReg (s.cfg.cmdByte.get ⟨a.toNat, h⟩)], ustep := ⟨1, .opening⟩ }) ∧
    (s.ustep.item = 1 →
      exec (.sendcmd a) s = .next { s with result := .ok, busy := false, abortPend := false, done := true })

/-- R137: RDCREG's write and its read; `RDY`, `ERRF`, `ERRC` are not written.
Model's choice (log 26): `TFCODE`, `OPREG` and `USTEP` (U21) keep what they held as the operation ends. -/
def Obligations.RdcregFetchesTheByte : Prop :=
  ∀ s : State, s.abortPend = false → (nextAnswer s).failure = none →
    (s.ustep.item = 0 →
      exec .rdcreg s = .next { takeAnswer s with
        trace := s.trace ++ [.regWrite s.devAddr s.cfg.cmdReg (s.cfg.cmdByte.get 3)], ustep := ⟨1, .opening⟩ }) ∧
    (s.ustep.item = 1 →
      exec .rdcreg s = .next { takeAnswer s with
        trace := s.trace ++ [.regRead s.devAddr s.cfg.cmdReg (nextAnswer s).byte],
        cmdval := (nextAnswer s).byte, cmdvalV := true,
        result := .ok, busy := false, abortPend := false, done := true })

/-- R139, R138: ISRDY's write and its read; `RDY` is 1 iff `v & 0x20` is not 0.
Model's choice (log 26): `TFCODE`, `OPREG` and `USTEP` (U21) keep what they held as the operation ends. -/
def Obligations.IsrdyExtractsBitFive : Prop :=
  ∀ s : State, s.abortPend = false → (nextAnswer s).failure = none →
    (s.ustep.item = 0 →
      exec .isrdy s = .next { takeAnswer s with
        trace := s.trace ++ [.regWrite s.devAddr s.cfg.cmdReg (s.cfg.cmdByte.get 3)], ustep := ⟨1, .opening⟩ }) ∧
    (s.ustep.item = 1 →
      exec .isrdy s = .next { takeAnswer s with
        trace := s.trace ++ [.regRead s.devAddr s.cfg.cmdReg (nextAnswer s).byte],
        cmdval := (nextAnswer s).byte, cmdvalV := true,
        rdy := ((nextAnswer s).byte &&& 0x20#8) != 0#8, rdyV := true,
        result := .ok, busy := false, abortPend := false, done := true })

/-- R162, R206, R210: GETERR's write and its read; the field `(v >> 3) & 0b11` is mapped to the error of that number.
Model's choice (log 26): `TFCODE`, `OPREG` and `USTEP` (U21) keep what they held as the operation ends. -/
def Obligations.GeterrDecodesTheErrorBits : Prop :=
  ∀ s : State, s.abortPend = false → (nextAnswer s).failure = none →
    (s.ustep.item = 0 →
      exec .geterr s = .next { takeAnswer s with
        trace := s.trace ++ [.regWrite s.devAddr s.cfg.cmdReg (s.cfg.cmdByte.get 3)], ustep := ⟨1, .opening⟩ }) ∧
    (s.ustep.item = 1 →
      ∃ (f : BitVec 2) (c : ErrorCode), f.toNat = (nextAnswer s).byte.toNat / 8 % 4 ∧ errorCodeNumber c = f.toNat ∧
        exec .geterr s = .next { takeAnswer s with
          trace := s.trace ++ [.regRead s.devAddr s.cfg.cmdReg (nextAnswer s).byte],
          cmdval := (nextAnswer s).byte, cmdvalV := true, errf := f, errc := c, errV := true,
          result := .ok, busy := false, abortPend := false, done := true })

/-- R140, R141, R150, R157: an attempt of a poll item, POLL's own or one inside RSTCH or FETCH: the write (the poll's first one
clears the count), then the read, which exhausts the bound or goes on to another attempt; a ready read returns, which completes POLL
(for RSTCH and FETCH: `RstchStepsAndCompletes`, `FetchStepsToTheBlockRead`).
Model's choice (log 26): `TFCODE`, `OPREG` and `USTEP` (U21) keep what they held as the operation ends. -/
def Obligations.PollAttemptDecides : Prop :=
  ∀ (s : State) (i : Instr), i.wellFormed = true → isPollItem i s.ustep.item = true → s.abortPend = false →
    (nextAnswer s).failure = none →
    (s.ustep.sub ≠ .read →
      exec i s = .next { takeAnswer s with
        trace := s.trace ++ [.regWrite s.devAddr s.cfg.cmdReg (s.cfg.cmdByte.get 3)], ustep := ⟨s.ustep.item, .read⟩,
        pollcnt := if s.ustep.sub = .opening then 0#16 else s.pollcnt }) ∧
    (s.ustep.sub = .read → ∃ c : Half, c.toNat = min (s.pollcnt.toNat + 1) 65535 ∧
      (i = .poll → (nextAnswer s).byte &&& 0x20#8 ≠ 0#8 →
        exec .poll s = .next { takeAnswer s with
          trace := s.trace ++ [.regRead s.devAddr s.cfg.cmdReg (nextAnswer s).byte],
          cmdval := (nextAnswer s).byte, cmdvalV := true, rdy := true, rdyV := true, pollcnt := c,
          result := .ok, busy := false, abortPend := false, done := true }) ∧
      ((nextAnswer s).byte &&& 0x20#8 = 0#8 → s.cfg.maxPoll ≠ 0#16 ∧ c = s.cfg.maxPoll →
        exec i s = .next { takeAnswer s with
          trace := s.trace ++ [.regRead s.devAddr s.cfg.cmdReg (nextAnswer s).byte],
          cmdval := (nextAnswer s).byte, cmdvalV := true, rdy := false, rdyV := true, pollcnt := c,
          rxbuf := if isFetch i then [] else s.rxbuf,
          result := .operationTimedOut, errseen := true, phase := .idle, busy := false, abortPend := false, done := true }) ∧
      ((nextAnswer s).byte &&& 0x20#8 = 0#8 → ¬(s.cfg.maxPoll ≠ 0#16 ∧ c = s.cfg.maxPoll) →
        exec i s = .next { takeAnswer s with
          trace := s.trace ++ [.regRead s.devAddr s.cfg.cmdReg (nextAnswer s).byte],
          cmdval := (nextAnswer s).byte, cmdvalV := true, rdy := false, rdyV := true, pollcnt := c,
          ustep := ⟨s.ustep.item, .write⟩ }))

/-- R150, R165, R141: RSTCH's two writes, then each attempt's write, and the poll's read that sees the ready bit and completes it (the
reads that do not: `PollAttemptDecides`).
Model's choice (log 26): `TFCODE`, `OPREG` and `USTEP` (U21) keep what they held as the operation ends. -/
def Obligations.RstchStepsAndCompletes : Prop :=
  ∀ (s : State) (ch : Byte) (h : ch.toNat < 2), s.abortPend = false → (nextAnswer s).failure = none →
    (s.ustep.item = 0 →
      exec (.rstch ch) s = .next { takeAnswer s with
        trace := s.trace ++ [.regWrite s.devAddr s.cfg.cmdReg (s.cfg.cmdByte.get 0)],
        phase := .cmdPending, ustep := ⟨1, .opening⟩ }) ∧
    (s.ustep.item = 1 →
      exec (.rstch ch) s = .next { takeAnswer s with
        trace := s.trace ++ [.regWrite s.devAddr s.cfg.cmdReg (s.cfg.cmdByte.get ⟨1 + ch.toNat, by omega⟩)],
        phase := .opPending, ustep := ⟨2, .opening⟩ }) ∧
    (s.ustep.item = 2 → s.ustep.sub ≠ .read →
      exec (.rstch ch) s = .next { takeAnswer s with
        trace := s.trace ++ [.regWrite s.devAddr s.cfg.cmdReg (s.cfg.cmdByte.get 3)], ustep := ⟨2, .read⟩,
        pollcnt := if s.ustep.sub = .opening then 0#16 else s.pollcnt }) ∧
    (s.ustep = ⟨2, .read⟩ → (nextAnswer s).byte &&& 0x20#8 ≠ 0#8 →
      ∃ c : Half, c.toNat = min (s.pollcnt.toNat + 1) 65535 ∧
        exec (.rstch ch) s = .next { takeAnswer s with
          trace := s.trace ++ [.regRead s.devAddr s.cfg.cmdReg (nextAnswer s).byte],
          cmdval := (nextAnswer s).byte, cmdvalV := true, rdy := true, rdyV := true, pollcnt := c,
          phase := .readyData, result := .ok, busy := false, abortPend := false, done := true })

/-- R156, R157, R227: the block read of FETCH: OK with the bytes when the length is right, ProtocolError and an empty buffer when
it is not.
Model's choice (log 26): `TFCODE`, `OPREG` and `USTEP` (U21) keep what they held as the operation ends. -/
def Obligations.FetchBlockReadDecides : Prop :=
  ∀ (s : State) (a n : Byte), a.toNat < 9 → s.ustep.item = 4 → s.abortPend = false → (nextAnswer s).failure = none →
    (nextAnswer s).block.length ≤ 255 →
    ((nextAnswer s).block.length = n.toNat →
      exec (.fetch a n) s = .next { takeAnswer s with
        trace := s.trace ++ [.blockRead s.devAddr n (nextAnswer s).block], rxbuf := (nextAnswer s).block,
        result := .ok, busy := false, abortPend := false, done := true }) ∧
    ((nextAnswer s).block.length ≠ n.toNat →
      exec (.fetch a n) s = .next { takeAnswer s with
        trace := s.trace ++ [.blockRead s.devAddr n (nextAnswer s).block], rxbuf := [],
        result := .protocolError, errseen := true, phase := .idle, busy := false, abortPend := false, done := true })

/-- R156, R165, R141: the four items of FETCH before its block read: the two writes, each attempt's write, and the read of a poll that
sees the ready bit (the reads that do not: `PollAttemptDecides`). -/
def Obligations.FetchStepsToTheBlockRead : Prop :=
  ∀ (s : State) (a n : Byte) (h : a.toNat < 9), s.abortPend = false → (nextAnswer s).failure = none →
    (s.ustep.item = 0 →
      exec (.fetch a n) s = .next { takeAnswer s with
        trace := s.trace ++ [.regWrite s.devAddr s.cfg.cmdReg (s.cfg.cmdByte.get 0)],
        phase := .cmdPending, ustep := ⟨1, .opening⟩ }) ∧
    (s.ustep.item = 2 →
      exec (.fetch a n) s = .next { takeAnswer s with
        trace := s.trace ++ [.regWrite s.devAddr s.cfg.cmdReg (s.cfg.cmdByte.get ⟨a.toNat, h⟩)],
        phase := .opPending, ustep := ⟨3, .opening⟩ }) ∧
    (s.ustep.item = 1 ∨ s.ustep.item = 3 → s.ustep.sub ≠ .read →
      exec (.fetch a n) s = .next { takeAnswer s with
        trace := s.trace ++ [.regWrite s.devAddr s.cfg.cmdReg (s.cfg.cmdByte.get 3)], ustep := ⟨s.ustep.item, .read⟩,
        pollcnt := if s.ustep.sub = .opening then 0#16 else s.pollcnt }) ∧
    (s.ustep.item = 1 ∨ s.ustep.item = 3 → s.ustep.sub = .read → (nextAnswer s).byte &&& 0x20#8 ≠ 0#8 →
      ∃ c : Half, c.toNat = min (s.pollcnt.toNat + 1) 65535 ∧
        exec (.fetch a n) s = .next { takeAnswer s with
          trace := s.trace ++ [.regRead s.devAddr s.cfg.cmdReg (nextAnswer s).byte],
          cmdval := (nextAnswer s).byte, cmdvalV := true, rdy := true, rdyV := true, pollcnt := c,
          phase := if s.ustep.item = 1 then .ready else .readyData, ustep := ⟨s.ustep.item + 1, .opening⟩ })

/-! ### The sequencer, whole operations -/

/-- R140, V7: a poll returns OK at the first attempt whose byte has bit 5 set, having made exactly that many attempts. -/
def Obligations.PollReturnsAtTheFirstReady : Prop :=
  ∀ (s : State) (early : List (DevAnswer × DevAnswer)) (last : DevAnswer × DevAnswer) (rest : List DevAnswer),
    s.InFlight .poll → s.ustep = ⟨0, .opening⟩ → s.dev = attemptScript (early ++ [last]) ++ rest →
    (∀ p ∈ early, NotReady p) → IsReady last →
    (s.cfg.maxPoll ≠ 0#16 → early.length + 1 ≤ s.cfg.maxPoll.toNat) →
    ∃ t, Host.Core.run core (2 * (early.length + 1)) s = .next t ∧
      t.busy = false ∧ t.result = .ok ∧ t.errseen = s.errseen ∧ t.pollcnt.toNat = min (early.length + 1) 65535 ∧
      t.rdy = true ∧ t.rdyV = true ∧ t.cmdval = last.2.byte ∧ t.cmdvalV = true ∧ t.dev = rest ∧ t.phase = s.phase ∧
      t.trace = s.trace ++ attemptEvents s (early ++ [last])

/-- R140, R231, R150, R157: a bounded poll, POLL's own or one inside RSTCH or FETCH, whose `MAX_POLL` attempts all see bit 5 clear ends
its operation with OperationTimedOut after exactly those; FETCH leaves no byte in the buffer. -/
def Obligations.PollTimesOutAfterTheBound : Prop :=
  ∀ (s : State) (i : Instr) (n : Nat) (ps : List (DevAnswer × DevAnswer)) (rest : List DevAnswer),
    i.wellFormed = true → isPollItem i n = true → s.InFlight i → s.ustep = ⟨n, .opening⟩ →
    s.dev = attemptScript ps ++ rest → (∀ p ∈ ps, NotReady p) → s.cfg.maxPoll ≠ 0#16 → ps.length = s.cfg.maxPoll.toNat →
    ∃ t, Host.Core.run core (2 * ps.length) s = .next t ∧
      t.busy = false ∧ t.result = .operationTimedOut ∧ t.errseen = true ∧ t.phase = .idle ∧
      t.pollcnt = s.cfg.maxPoll ∧ t.rdy = false ∧ t.rdyV = true ∧ t.dev = rest ∧
      t.rxbuf = (if isFetch i then [] else s.rxbuf) ∧
      t.trace = s.trace ++ attemptEvents s ps

/-- R274, R140, U5: with `MAX_POLL = 0` a poll whose ready bit is never seen never completes: after any number of attempts it is
still in flight, and the count has saturated at 65535. -/
def Obligations.UnboundedPollNeverEnds : Prop :=
  ∀ (s : State) (ps : List (DevAnswer × DevAnswer)) (rest : List DevAnswer),
    s.InFlight .poll → s.ustep = ⟨0, .opening⟩ → s.dev = attemptScript ps ++ rest → (∀ p ∈ ps, NotReady p) →
    s.cfg.maxPoll = 0#16 → ps ≠ [] →
    ∃ t, Host.Core.run core (2 * ps.length) s = .next t ∧
      t.InFlight .poll ∧ t.ustep = ⟨0, .write⟩ ∧ t.pollcnt.toNat = min ps.length 65535 ∧ t.rdy = false ∧
      t.result = s.result ∧ t.trace = s.trace ++ attemptEvents s ps

/-- R150: a channel reset whose poll is ready at once: write, write, poll, and the acknowledged end. -/
def Obligations.RstchRunsWriteWritePoll : Prop :=
  ∀ (s : State) (ch : Byte) (h : ch.toNat < 2) (d1 d2 : DevAnswer) (att : DevAnswer × DevAnswer) (rest : List DevAnswer),
    s.InFlight (.rstch ch) → s.ustep = ⟨0, .opening⟩ → s.dev = d1 :: d2 :: att.1 :: att.2 :: rest →
    d1.failure = none → d2.failure = none → IsReady att →
    ∃ t, Host.Core.run core 4 s = .next t ∧
      t.busy = false ∧ t.result = .ok ∧ t.phase = .readyData ∧ t.pollcnt = 1#16 ∧ t.rdy = true ∧
      t.cmdval = att.2.byte ∧ t.dev = rest ∧
      t.trace = s.trace ++
        [.regWrite s.devAddr s.cfg.cmdReg (s.cfg.cmdByte.get 0),
         .regWrite s.devAddr s.cfg.cmdReg (s.cfg.cmdByte.get ⟨1 + ch.toNat, by omega⟩)] ++ attemptEvents s [att]

/-- R156: a fetch whose polls are ready at once and whose block has the expected length: write, poll, write, poll, block read. -/
def Obligations.FetchRunsToTheBlock : Prop :=
  ∀ (s : State) (a n : Byte) (h : a.toNat < 9) (d1 d2 d3 : DevAnswer) (p q : DevAnswer × DevAnswer) (rest : List DevAnswer),
    s.InFlight (.fetch a n) → s.ustep = ⟨0, .opening⟩ →
    s.dev = d1 :: p.1 :: p.2 :: d2 :: q.1 :: q.2 :: d3 :: rest →
    d1.failure = none → d2.failure = none → d3.failure = none → IsReady p → IsReady q → d3.block.length = n.toNat →
    ∃ t, Host.Core.run core 7 s = .next t ∧
      t.busy = false ∧ t.result = .ok ∧ t.phase = .readyData ∧ t.rxbuf = d3.block ∧ t.pollcnt = 1#16 ∧
      SamePkt s t ∧ SamePar s t ∧ t.dev = rest ∧
      t.trace = s.trace ++
        [.regWrite s.devAddr s.cfg.cmdReg (s.cfg.cmdByte.get 0)] ++ attemptEvents s [p] ++
        [.regWrite s.devAddr s.cfg.cmdReg (s.cfg.cmdByte.get ⟨a.toNat, h⟩)] ++ attemptEvents s [q] ++
        [.blockRead s.devAddr n d3.block]

/-! ### Errors and abort -/

/-- R230: a transaction that fails at the transport ends the operation in flight; nothing is retried, and what each rule
invalidates is invalidated. A failed write inside an attempt clears `RDY_V` (log 14). That a failed read keeps `CMDVAL` is the
model's choice (log 12), after the last row of vector S4 of 95_test_vectors.md; no rule says so. -/
def Obligations.TransportFailureEndsTheOperation : Prop :=
  ∀ (s : State) (i : Instr) (k : BusKind) (c : Byte), i.wellFormed = true → s.abortPend = false →
    busKindAt i s.ustep = some k → (nextAnswer s).failure = some c →
    ∃ t, exec i s = .next t ∧
      t.result = .transportError ∧ t.tfcode = c ∧ t.errseen = true ∧ t.busy = false ∧ t.phase = .idle ∧
      t.trace = s.trace ++ [.failed k s.devAddr c] ∧
      t.cmdval = s.cmdval ∧ t.cmdvalV = (if k = .r then false else s.cmdvalV) ∧
      t.rdyV = (if inAttempt i s.ustep then false else s.rdyV) ∧
      t.errV = (if i = .geterr then false else s.errV) ∧
      t.rxbuf = (if isFetch i then [] else s.rxbuf) ∧
      SameChk s t ∧ SamePkt s t ∧ SamePar s t ∧ SameTx s t

/-- R232: the abort request is latched only while `BUSY = 1` (`done`: log 16); pending, it ends an operation of the sequencer at its
next step with OperationTimedOut and no bus transaction. GETERR then clears `ERR_V` (R162) and FETCH leaves the buffer empty (R157;
log 24). The model's readings: `RDY`, `CMDVAL` and their flags are kept (log 13); a POLL that never began leaves the count 0 (R142;
log 15), every other abort the count as it was; SENDCMD has a step at the end of its wait (log 8). An operation of the codec or the
decoders completes as if there were no request. -/
def Obligations.AbortEndsASequencerOperation : Prop :=
  (∀ (s : State) (rest : List HostAct), s.hostActs = .abort :: rest →
    step s = .next { s with hostActs := rest, done := false, abortPend := s.busy || s.abortPend }) ∧
  (∀ (s : State) (i : Instr), i.wellFormed = true → isBusOp i = true → s.ustep.item < itemCount i → s.abortPend = true →
    ∃ t, exec i s = .next t ∧
      t.result = .operationTimedOut ∧ t.errseen = true ∧ t.busy = false ∧ t.phase = .idle ∧ t.abortPend = false ∧
      t.trace = s.trace ∧ t.dev = s.dev ∧ t.devIx = s.devIx ∧
      SameCmdval s t ∧ SameRdy s t ∧ t.errV = (if i = .geterr then false else s.errV) ∧
      t.pollcnt = (if i = .poll ∧ s.ustep.sub = .opening then 0#16 else s.pollcnt) ∧
      t.rxbuf = (if isFetch i then [] else s.rxbuf)) ∧
  (∀ (s : State) (i : Instr) (b : Bool), isBusOp i = false →
    exec i { s with abortPend := b } = exec i s)

/-- R48: `ERRSEEN` is set at every completion whose result is not OK (of an operation in flight, or of an illegal word as it is
accepted), is cleared by reset and by nothing else, is 0 after reset, and is what a host read of number 0x003 answers. -/
def Obligations.ErrseenIsSticky : Prop :=
  (∀ s t : State, step s = .next t → (s.busy = true ∨ t.hostOps.length < s.hostOps.length) → t.busy = false → t.result ≠ .ok →
    t.errseen = true) ∧
  (∀ s t : State, step s = .next t → s.errseen = true → (∀ p rest, s.hostActs ≠ .reset p :: rest) → t.errseen = true) ∧
  (∀ (s t : State) (p : BusAddr) (rest : List HostAct), s.hostActs = .reset p :: rest → step s = .next t → t.errseen = false) ∧
  State.reset.errseen = false ∧
  (∀ (s : State) (rest : List HostAct), s.hostActs = .read 0x003#12 :: rest →
    ∃ t, step s = .next t ∧ t.readData.toNat = s.errseen.toNat)

/-! ### The codec -/

/-- R171: CLRBUF and its word.
Model's choice (log 26): `TFCODE`, `OPREG` and `USTEP` (U21) keep what they held as the operation ends. -/
def Obligations.ClrbufEmptiesTheBuffer : Prop :=
  encode .clrbuf = 0x10000000#32 ∧
  ∀ s : State, exec .clrbuf s = .next { s with
    rxbuf := [], result := .ok, busy := false, abortPend := false, done := true }

/-- R172: PUSHB and its word; it appends its byte, and with a full buffer ends with IllegalOperation and changes nothing else.
Model's choice (log 26): `TFCODE`, `OPREG` and `USTEP` (U21) keep what they held as the operation ends. -/
def Obligations.PushbAppendsUntilFull : Prop :=
  ∀ (s : State) (v : Byte),
    encode (.pushb v) = 0x11000000#32 ||| (v.setWidth 32 <<< 16) ∧
    (s.rxbuf.length < 255 → exec (.pushb v) s = .next { s with
      rxbuf := s.rxbuf ++ [v], result := .ok, busy := false, abortPend := false, done := true }) ∧
    (s.rxbuf.length = 255 → exec (.pushb v) s = .next { s with
      result := .illegalOperation, errseen := true, phase := .idle, busy := false, abortPend := false, done := true })

/-- R174: SETPAR and its word; it writes one field and sets its valid bit, the other three fields and bits are unchanged; an index
above 3 is illegal. -/
def Obligations.SetparWritesOneField : Prop :=
  ∀ (s : State) (a : Byte) (x : Half),
    encode (.setpar a x) = 0x12000000#32 ||| (a.setWidth 32 <<< 16) ||| x.setWidth 32 ∧
    (a.toNat < 4 →
      ∃ t, exec (.setpar a x) s = .next t ∧ t.result = .ok ∧ t.busy = false ∧ t.errseen = s.errseen ∧
        (∀ j : ParIndex, parGet t.par j = if parNumber j = a.toNat then x else parGet s.par j) ∧
        (∀ k : Nat, t.parV.getLsbD k = (s.parV.getLsbD k || k == a.toNat)) ∧
        t.rxbuf = s.rxbuf ∧ SamePkt s t ∧ SameTx s t) ∧
    (3 < a.toNat →
      ∃ t, exec (.setpar a x) s = .next t ∧ t.result = .illegalOperation ∧ t.errseen = true ∧ t.busy = false ∧ SamePar s t)

/-- R178, R66: DECDATA and its word; thirteen bytes are decoded, every multi-byte field little-endian and unsigned; any other length
is a FormatError. The buffer is not changed. -/
def Obligations.DecdataDecodesThirteenBytes : Prop :=
  encode .decdata = 0x13000000#32 ∧
  (∀ s : State, s.rxbuf.length ≠ 13 → ∃ t, exec .decdata s = .next t ∧
    t.result = .formatError ∧ t.errseen = true ∧ t.busy = false ∧ t.phase = .idle ∧ t.pktV = false ∧ t.rxbuf = s.rxbuf) ∧
  ∀ (s : State) (b0 b1 b2 b3 b4 b5 b6 b7 b8 b9 b10 b11 b12 : Byte),
    s.rxbuf = [b0, b1, b2, b3, b4, b5, b6, b7, b8, b9, b10, b11, b12] →
    ∃ t, exec .decdata s = .next t ∧ t.result = .ok ∧ t.busy = false ∧ t.errseen = s.errseen ∧ t.pktV = true ∧
      t.rxbuf = s.rxbuf ∧
      t.pkt.time.toNat = b0.toNat + 256 * b1.toNat + 65536 * b2.toNat + 16777216 * b3.toNat ∧
      t.pkt.voltage = b4 ∧
      t.pkt.current.toNat = b5.toNat + 256 * b6.toNat ∧
      t.pkt.temperature.toNat = b7.toNat + 256 * b8.toNat ∧
      t.pkt.light.toNat = b9.toNat + 256 * b10.toNat ∧
      t.pkt.error = b11 ∧ t.pkt.checksum = b12

/-- R182, R66: DECPAR and its word; eight bytes are decoded; any other length is a FormatError and clears all four valid bits. -/
def Obligations.DecparDecodesEightBytes : Prop :=
  encode .decpar = 0x14000000#32 ∧
  (∀ s : State, s.rxbuf.length ≠ 8 → ∃ t, exec .decpar s = .next t ∧
    t.result = .formatError ∧ t.errseen = true ∧ t.busy = false ∧ t.phase = .idle ∧ t.parV = 0b0000#4 ∧ t.rxbuf = s.rxbuf) ∧
  ∀ (s : State) (b0 b1 b2 b3 b4 b5 b6 b7 : Byte), s.rxbuf = [b0, b1, b2, b3, b4, b5, b6, b7] →
    ∃ t, exec .decpar s = .next t ∧ t.result = .ok ∧ t.busy = false ∧ t.errseen = s.errseen ∧ t.parV = 0b1111#4 ∧
      t.rxbuf = s.rxbuf ∧
      t.par.settle.toNat = b0.toNat + 256 * b1.toNat ∧ t.par.track.toNat = b2.toNat + 256 * b3.toNat ∧
      t.par.sample.toNat = b4.toNat + 256 * b5.toNat ∧ t.par.thresh.toNat = b6.toNat + 256 * b7.toNat

/-- R186, R187: ENCPAR and its word: low byte then high byte of each field in order; IllegalOperation iff some field has no value. -/
def Obligations.EncparEncodesEveryField : Prop :=
  encode .encpar = 0x15000000#32 ∧
  (∀ s : State, s.parV = 0b1111#4 →
    ∃ t, exec .encpar s = .next t ∧ t.result = .ok ∧ t.busy = false ∧ t.errseen = s.errseen ∧ t.txV = true ∧ t.par = s.par ∧
      ∀ j : ParIndex,
        (t.txbuf.toList.getD (2 * parNumber j) 0#8).toNat = (parGet s.par j).toNat % 256 ∧
        (t.txbuf.toList.getD (2 * parNumber j + 1) 0#8).toNat = (parGet s.par j).toNat / 256) ∧
  (∀ s : State, s.parV ≠ 0b1111#4 →
    ∃ t, exec .encpar s = .next t ∧ t.result = .illegalOperation ∧ t.errseen = true ∧ t.busy = false ∧ t.phase = .idle ∧
      t.txV = false ∧ SamePar s t)

/-- R188: encoding the parameters, copying the eight bytes into the buffer with CLRBUF and PUSHB, and decoding them gives them
back; and decoding eight bytes and encoding the result gives the bytes back. -/
def Obligations.ParameterPacketRoundTrips : Prop :=
  (∀ s : State, s.parV = 0b1111#4 →
    ∃ t u, exec .encpar s = .next t ∧
      execAll (.clrbuf :: t.txbuf.toList.map .pushb ++ [.decpar]) t = .next u ∧ u.par = s.par ∧ u.parV = 0b1111#4) ∧
  (∀ s : State, s.rxbuf.length = 8 →
    ∃ u, execAll [.decpar, .encpar] s = .next u ∧ u.txbuf.toList = s.rxbuf ∧ u.txV = true)

/-! ### The checksum validator and the error decoder -/

/-- R204, R202, R203: CHKSUM and its word; it computes, compares and reports, a mismatch being no error; under `SUM8` the value is
the sum mod 256; any length but thirteen is a FormatError.
Model's choice (log 26): `TFCODE`, `OPREG` and `USTEP` (U21) keep what they held as the operation ends. -/
def Obligations.ChksumComparesAndReports : Prop :=
  encode .chksum = 0x20000000#32 ∧
  (∀ s : State, s.rxbuf.length ≠ 13 → ∃ t, exec .chksum s = .next t ∧
    t.result = .formatError ∧ t.errseen = true ∧ t.busy = false ∧ t.phase = .idle ∧ t.chkV = false ∧ t.rxbuf = s.rxbuf ∧
    SamePkt s t) ∧
  ∀ (s : State) (B : List Byte) (last : Byte), B.length = 12 → s.rxbuf = B ++ [last] →
    ∃ v : Byte, exec .chksum s = .next { s with
        chkCalc := v, chkOk := decide (v = last), chkV := true,
        result := .ok, busy := false, abortPend := false, done := true } ∧
      (s.cfg.checksum = .sum8 → v.toNat = (B.map BitVec.toNat).sum % 256) ∧
      (s.cfg.checksum = .uninterpreted → v = Config.checksumFn B)

/-- R208, R206, R210: ERRDEC and its word; a decoded packet's error byte, whatever it is; without a packet, IllegalOperation.
Model's choice (log 26): `TFCODE`, `OPREG` and `USTEP` (U21) keep what they held as the operation ends. -/
def Obligations.ErrdecDecodesThePacketByte : Prop :=
  encode .errdec = 0x21000000#32 ∧
  (∀ s : State, s.pktV = true →
    ∃ (f : BitVec 2) (c : ErrorCode), f.toNat = s.pkt.error.toNat / 8 % 4 ∧ errorCodeNumber c = f.toNat ∧
      exec .errdec s = .next { s with
        errf := f, errc := c, errV := true, result := .ok, busy := false, abortPend := false, done := true }) ∧
  (∀ s : State, s.pktV = false →
    ∃ t, exec .errdec s = .next t ∧ t.result = .illegalOperation ∧ t.errseen = true ∧ t.busy = false ∧ t.phase = .idle ∧
      t.errV = false)

/-- R212, R210: ERRMAP and its word; every code, without the shift: 0 to 3 map to the error of that number, every other to
`unknown`.
Model's choice (log 26): `TFCODE`, `OPREG` and `USTEP` (U21) keep what they held as the operation ends. -/
def Obligations.ErrmapMapsTheImmediate : Prop :=
  ∀ (s : State) (c : Byte),
    encode (.errmap c) = 0x22000000#32 ||| (c.setWidth 32 <<< 16) ∧
    ∃ (f : BitVec 2) (e : ErrorCode), f.toNat = c.toNat % 4 ∧ errorCodeNumber e = min c.toNat 4 ∧
      exec (.errmap c) s = .next { s with
        errf := f, errc := e, errV := true, result := .ok, busy := false, abortPend := false, done := true }

/-- R209: the field extracted is 0 to 3 and never maps to `unknown`, so "ERRDEC and GETERR never write `ERRC = unknown`; only ERRMAP
can", and ERRMAP does. -/
def Obligations.OnlyErrmapWritesUnknown : Prop :=
  (∀ e : Byte, (errField e).toNat ≤ 3 ∧ errCodeOf e ≠ .unknown) ∧
  (∀ s : State, ∃ t, exec (.errmap 5#8) s = .next t ∧ t.errV = true ∧ t.errc = .unknown) ∧
  ∀ (s t : State) (i : Instr), exec i s = .next t → t.errV = true → t.errc = .unknown →
    (∃ c, i = .errmap c) ∨ (s.errV = true ∧ s.errc = .unknown)

/-! ### Frames -/

/-- R20, R36, R156, R162 and the "Registers written" of each rule: what a step of a sequencer operation leaves unchanged.
Model's choice (log 26): `TFCODE` (U21) keeps what it held at a result that is not TransportError; while `RESULT` is TransportError,
R49 says so. -/
def Obligations.SequencerFrames : Prop :=
  ∀ (s t : State) (i : Instr), isBusOp i = true → exec i s = .next t →
    SameSurroundings s t ∧ SameChk s t ∧ SamePkt s t ∧ SamePar s t ∧ SameTx s t ∧
    (i ≠ .geterr → SameErr s t) ∧
    (isFetch i = false → t.rxbuf = s.rxbuf) ∧
    (busKindAt i s.ustep ≠ some .r → SameCmdval s t) ∧
    (i ≠ .isrdy → isPollItem i s.ustep.item = false → SameRdy s t) ∧
    (isPollItem i s.ustep.item = false → t.pollcnt = s.pollcnt) ∧
    (t.busy = true → t.result = s.result ∧ t.errseen = s.errseen ∧ t.tfcode = s.tfcode) ∧
    (t.result ≠ .transportError → t.tfcode = s.tfcode)

/-- R170 and the "Registers written" of each rule: a codec, checksum or error operation completes in one step, issues no bus
transaction, consults no answer of the device, and leaves every register group unchanged but its own destination.
Model's choice (log 26): `TFCODE`, `OPREG` and `USTEP` (U21) keep what they held as the operation ends. -/
def Obligations.OneStepOperationFrames : Prop :=
  ∀ (s : State) (i : Instr), isBusOp i = false →
    ∃ t, exec i s = .next t ∧ t.busy = false ∧ t.done = true ∧
      t.trace = s.trace ∧ t.dev = s.dev ∧ t.devIx = s.devIx ∧
      SameSurroundings s t ∧ SameCmdval s t ∧ SameRdy s t ∧ t.pollcnt = s.pollcnt ∧ t.tfcode = s.tfcode ∧
      t.ustep = s.ustep ∧ (t.phase = s.phase ∨ (t.phase = .idle ∧ t.result ≠ .ok)) ∧
      ((i ≠ .clrbuf ∧ ∀ v, i ≠ .pushb v) → t.rxbuf = s.rxbuf) ∧
      (i ≠ .decdata → SamePkt s t) ∧
      ((i ≠ .decpar ∧ ∀ a x, i ≠ .setpar a x) → SamePar s t) ∧
      (i ≠ .encpar → SameTx s t) ∧
      (i ≠ .chksum → SameChk s t) ∧
      ((i ≠ .errdec ∧ ∀ c, i ≠ .errmap c) → SameErr s t)

/-- R34, R165: the edges of `PHASE`; only RSTCH and FETCH move it off its value, except to `IDLE`. -/
def Obligations.PhaseMovesAlongItsEdges : Prop :=
  ∀ (s t : State) (i : Instr), FlightOk i s → exec i s = .next t →
    t.phase = s.phase ∨ t.phase = .idle ∨
    ((∃ c, i = .rstch c) ∧
      ((s.phase = .idle ∧ t.phase = .cmdPending) ∨ (s.phase = .cmdPending ∧ t.phase = .opPending) ∨
        (s.phase = .opPending ∧ t.phase = .readyData))) ∨
    ((∃ a n, i = .fetch a n) ∧
      ((s.phase = .idle ∧ t.phase = .cmdPending) ∨ (s.phase = .cmdPending ∧ t.phase = .ready) ∨
        (s.phase = .ready ∧ t.phase = .opPending) ∨ (s.phase = .opPending ∧ t.phase = .readyData)))

/-! ### The whole machine -/

/-- R53, R42, R46, R35, R48, R225: the invariant holds after reset. -/
def Obligations.ResetMeetsTheInvariant : Prop := State.reset.Inv ∧ State.reset.BusDiscipline

/-- R42, R46, R35, R48, R209, R225, R131, R165, R140: every step keeps the invariant. -/
def Obligations.StepKeepsTheInvariant : Prop :=
  ∀ s t : State, s.Inv → step s = .next t → t.Inv

/-- R62, R63, R64, R65, R102: every event the block issues carries `DEV_ADDR`; register accesses go to `CMD_REG` only, writes are
of command bytes only, and there is no block write. -/
def Obligations.StepKeepsTheBusDiscipline : Prop :=
  ∀ s t : State, s.BusDiscipline → step s = .next t → t.BusDiscipline

/-- R78: in every state that meets the invariant the machine goes on, whatever the device answers and the host does. -/
def Obligations.MachineNeverStops : Prop :=
  ∀ s : State, s.Inv → ∃ t, step s = .next t

/-- R130, R79, R261: a step adds at most one bus event to the trace; only reset empties it. -/
def Obligations.OneTransactionAStep : Prop :=
  ∀ s t : State, step s = .next t →
    t.trace = s.trace ∨ (∃ e, t.trace = s.trace ++ [e]) ∨ ((∃ p rest, s.hostActs = .reset p :: rest) ∧ t.trace = [])

/-- R21, R262: no step changes a parameter, and only reset samples `DEV_ADDR`. -/
def Obligations.ParametersNeverChange : Prop :=
  ∀ s t : State, step s = .next t →
    t.cfg = s.cfg ∧ ((∀ p rest, s.hostActs ≠ .reset p :: rest) → t.devAddr = s.devAddr) ∧
      (∀ p rest, s.hostActs = .reset p :: rest → t.devAddr = p)

/-- R274: with `MAX_POLL >= 1` and a quiet host, every operation ends within `3 + 4 * MAX_POLL` steps and bus transactions,
whatever the device answers. -/
def Obligations.BoundedOperationsEnd : Prop :=
  ∀ s : State, s.Inv → s.busy = true → s.hostActs = [] → s.cfg.maxPoll ≠ 0#16 →
    ∃ k t, k ≤ 3 + 4 * s.cfg.maxPoll.toNat ∧ Host.Core.run core k s = .next t ∧ t.busy = false ∧
      t.trace.length ≤ s.trace.length + (3 + 4 * s.cfg.maxPoll.toNat)

/-- R274, step by step: under a bounded poll, a step of the block ends the operation in flight or takes it nearer to its end
(the host's entry `pass`: log 6; the step at the end of SENDCMD's wait: log 8). -/
def Obligations.StepsLeftFall : Prop :=
  ∀ (s t : State) (i : Instr) (acts : List HostAct), s.Inv → s.busy = true → decode s.opreg = .ok i → s.BlockMoves acts →
    s.cfg.maxPoll ≠ 0#16 → step s = .next t →
    t.busy = false ∨ (t.opreg = s.opreg ∧ stepsLeft i t < stepsLeft i s)

/-! ### Reset and the register read port -/

/-- R53, R260, R261, R262: what the reset input leaves, in the state after the first reset and after any later one. -/
def Obligations.ResetLeavesTheStatedValues : Prop :=
  ∀ t : State, (t = State.reset ∨ ∃ (s : State) (p : BusAddr) (rest : List HostAct),
      s.hostActs = .reset p :: rest ∧ step s = .next t) →
    t.busy = false ∧ t.phase = .idle ∧ t.result = .ok ∧ t.errseen = false ∧ t.pollcnt = 0#16 ∧ t.abortPend = false ∧
      t.rxbuf = [] ∧ t.cmdvalV = false ∧ t.rdyV = false ∧ t.errV = false ∧ t.chkV = false ∧ t.pktV = false ∧
      t.txV = false ∧ t.parV = 0b0000#4 ∧ t.trace = []

/-- R50: a read of a register that holds a value answers that value, zero-extended to 32 bits; no read has a side effect on a
register, the trace, the host's words or the device. -/
def Obligations.HostReadAnswersAndChangesNothing : Prop :=
  ∀ (s : State) (n : BitVec 12) (rest : List HostAct), s.hostActs = .read n :: rest →
    ∃ (v : Word) (k : Nat), step s = .next { s with hostActs := rest, done := false, readData := v, freeIx := k } ∧
      ∀ r ∈ [(0x000, true, s.busy.toNat), (0x001, true, phaseCode s.phase), (0x002, true, resultNumber s.result),
          (0x003, true, s.errseen.toNat), (0x004, true, s.pollcnt.toNat),
          (0x005, decide (s.result = .transportError), s.tfcode.toNat), (0x006, s.cmdvalV, s.cmdval.toNat),
          (0x007, true, s.cmdvalV.toNat), (0x008, s.rdyV, s.rdy.toNat), (0x009, true, s.rdyV.toNat),
          (0x00A, s.errV, s.errf.toNat), (0x00B, s.errV, errorCodeNumber s.errc), (0x00C, true, s.errV.toNat),
          (0x00D, s.chkV, s.chkCalc.toNat), (0x00E, s.chkV, s.chkOk.toNat), (0x00F, true, s.chkV.toNat),
          (0x011, true, s.pktV.toNat), (0x012, s.pktV, s.pkt.time.toNat), (0x013, s.pktV, s.pkt.voltage.toNat),
          (0x014, s.pktV, s.pkt.current.toNat), (0x015, s.pktV, s.pkt.temperature.toNat),
          (0x016, s.pktV, s.pkt.light.toNat), (0x017, s.pktV, s.pkt.error.toNat), (0x018, s.pktV, s.pkt.checksum.toNat),
          (0x019, true, s.parV.toNat), (0x01A, s.parV.getLsbD 0, s.par.settle.toNat),
          (0x01B, s.parV.getLsbD 1, s.par.track.toNat), (0x01C, s.parV.getLsbD 2, s.par.sample.toNat),
          (0x01D, s.parV.getLsbD 3, s.par.thresh.toNat), (0x01E, true, s.txV.toNat), (0x030, true, s.devAddr.toNat),
          (0x031, true, s.cfg.cmdReg.toNat), (0x032, true, s.cfg.maxPoll.toNat)],
        n.toNat = r.1 → r.2.1 = true → v.toNat = r.2.2

/-- R50, R42, R43: the buffers, the command bytes and `RXLEN` through the read port. -/
def Obligations.HostReadsTheBuffers : Prop :=
  ∀ (s : State) (n : BitVec 12) (rest : List HostAct), s.hostActs = .read n :: rest → s.rxbuf.length ≤ 255 →
    ∃ t, step s = .next t ∧
      (n.toNat = 0x010 → t.readData.toNat = s.rxbuf.length) ∧
      (∀ i : Fin 8, n.toNat = 0x020 + i → s.txV = true → t.readData.toNat = (s.txbuf.get i).toNat) ∧
      (∀ k : Fin 9, n.toNat = 0x040 + k → t.readData.toNat = (s.cfg.cmdByte.get k).toNat) ∧
      (∀ (i : Nat) (b : Byte), n.toNat = 0x100 + i → s.rxbuf[i]? = some b → t.readData.toNat = b.toNat)
end

