-- ==== Sys2Proof/Laws/Decode.lean ====
section
/-! SUPPORT. The fields of a packed word: every word is its three fields, and the fields of a packed word are what was packed. -/

namespace Sys2Proof

/-- Which bit of which field each bit of a packed word is (R90). -/
theorem getLsbD_pack (o a : Byte) (b : Half) (i : Nat) :
    (pack o a b).getLsbD i =
      if i < 16 then b.getLsbD i else if i < 24 then a.getLsbD (i - 16) else o.getLsbD (i - 24) := by
  have h1 : (pack o a b).getLsbD i = if i < 16 then b.getLsbD i else (o ++ a).getLsbD (i - 16) :=
    BitVec.getLsbD_append
  have h2 : (o ++ a).getLsbD (i - 16) = if i - 16 < 8 then a.getLsbD (i - 16) else o.getLsbD (i - 16 - 8) :=
    BitVec.getLsbD_append
  rw [h1, h2]
  by_cases h : i < 16
  · simp [h]
  · have e : i - 16 - 8 = i - 24 := by omega
    by_cases h' : i < 24
    · simp [h, h', show i - 16 < 8 by omega]
    · simp [h, h', show ¬ i - 16 < 8 by omega, e]

@[simp] theorem opcField_pack (o a : Byte) (b : Half) : opcField (pack o a b) = o := by
  apply BitVec.eq_of_getLsbD_eq
  intro i hi
  rw [opcField, BitVec.getLsbD_extractLsb', getLsbD_pack]
  simp [hi, show ¬ 24 + i < 16 by omega]

@[simp] theorem aField_pack (o a : Byte) (b : Half) : aField (pack o a b) = a := by
  apply BitVec.eq_of_getLsbD_eq
  intro i hi
  rw [aField, BitVec.getLsbD_extractLsb', getLsbD_pack]
  simp [hi, show 16 + i < 24 by omega]

@[simp] theorem bField_pack (o a : Byte) (b : Half) : bField (pack o a b) = b := by
  apply BitVec.eq_of_getLsbD_eq
  intro i hi
  rw [bField, BitVec.getLsbD_extractLsb', getLsbD_pack]
  simp [hi]

/-- A word is its three fields (R90). -/
theorem pack_fields (w : Word) : pack (opcField w) (aField w) (bField w) = w := by
  apply BitVec.eq_of_getLsbD_eq
  intro i hi
  rw [getLsbD_pack, opcField, aField, bField]
  simp only [BitVec.getLsbD_extractLsb']
  split
  · simp_all
  · split
    · simp_all [show 16 + (i - 16) = i by omega]
      omega
    · simp_all [show 24 + (i - 24) = i by omega]
      omega

/-- Packing loses no field. -/
theorem pack_inj {o a o' a' : Byte} {b b' : Half} (h : pack o a b = pack o' a' b') : o = o' ∧ a = a' ∧ b = b' :=
  ⟨by simpa using congrArg opcField h, by simpa using congrArg aField h, by simpa using congrArg bField h⟩

/-- The length operand of a FETCH word is `b[7:0]`, and `b[15:8]` is 0 (R90, R156). -/
@[simp] theorem lowB_append (n : Byte) : (0#8 ++ n : Half).extractLsb' 0 8 = n := by
  apply BitVec.eq_of_getLsbD_eq
  intro i hi
  have h : (0#8 ++ n : BitVec (8 + 8)).getLsbD i = if i < 8 then n.getLsbD i else (0#8).getLsbD (i - 8) :=
    BitVec.getLsbD_append
  rw [BitVec.getLsbD_extractLsb']
  simp only [Nat.zero_add, hi, decide_true, Bool.true_and]
  exact h.trans (by simp [hi])

/-- A FETCH word has no bit of `b[15:8]` set (R90, R94). -/
theorem and_highB_append (n : Byte) : (0#8 ++ n : Half) &&& 0xFF00#16 = 0#16 := by
  apply BitVec.eq_of_getLsbD_eq
  intro i hi
  have h : (0#8 ++ n : BitVec (8 + 8)).getLsbD i = if i < 8 then n.getLsbD i else (0#8).getLsbD (i - 8) :=
    BitVec.getLsbD_append
  rw [BitVec.getLsbD_and, show (0#8 ++ n : Half).getLsbD i = _ from h]
  by_cases hl : i < 8
  · have hm : (0xFF00#16).getLsbD i = false := by
      clear h hi
      revert i
      decide
    simp [hm]
  · simp [hl]

/-- `b[15:8]` of a FETCH word is 0 (R90). -/
@[simp] theorem highB_append (n : Byte) : (0#8 ++ n : Half).extractLsb' 8 8 = 0#8 := by
  apply BitVec.eq_of_getLsbD_eq
  intro i hi
  have h : (0#8 ++ n : BitVec (8 + 8)).getLsbD (8 + i) = if 8 + i < 8 then n.getLsbD (8 + i) else (0#8).getLsbD (8 + i - 8) :=
    BitVec.getLsbD_append
  rw [BitVec.getLsbD_extractLsb']
  simp only [hi, decide_true, Bool.true_and]
  exact h.trans (by simp)

/-- A `b` whose high byte is 0 is its low byte, extended (R90). -/
theorem append_lowB (b : Half) (h : b.extractLsb' 8 8 = 0#8) : (0#8 ++ b.extractLsb' 0 8 : Half) = b := by
  apply BitVec.eq_of_getLsbD_eq
  intro i hi
  have ha : (0#8 ++ b.extractLsb' 0 8 : BitVec (8 + 8)).getLsbD i
      = if i < 8 then (b.extractLsb' 0 8).getLsbD i else (0#8).getLsbD (i - 8) := BitVec.getLsbD_append
  refine ha.trans ?_
  by_cases hl : i < 8
  · simp [hl]
  · have hb := congrArg (fun x : Byte => x.getLsbD (i - 8)) h
    simp only [BitVec.getLsbD_extractLsb', show 8 + (i - 8) = i by omega, show i - 8 < 8 by omega, decide_true,
      Bool.true_and] at hb
    simp [hl, hb]

end Sys2Proof
end

