-- ==== Sys2Proof/Laws/State.lean ====
section
/-! SUPPORT. Every field of the state after each named update, so that no later proof unfolds a record update: one lemma per
update, a conjunction with one equation per field, each true by rfl. -/

namespace Sys2Proof.Machine

@[simp] theorem complete_fields (s : State) :
    (complete s).cfg = s.cfg ∧ (complete s).devAddr = s.devAddr ∧ (complete s).busy = false ∧ (complete s).opreg = s.opreg ∧
    (complete s).ustep = s.ustep ∧ (complete s).phase = s.phase ∧ (complete s).pollcnt = s.pollcnt ∧
    (complete s).abortPend = false ∧ (complete s).done = true ∧ (complete s).result = .ok ∧
    (complete s).errseen = s.errseen ∧ (complete s).tfcode = s.tfcode ∧ (complete s).cmdval = s.cmdval ∧
    (complete s).cmdvalV = s.cmdvalV ∧ (complete s).rdy = s.rdy ∧ (complete s).rdyV = s.rdyV ∧ (complete s).errf = s.errf ∧
    (complete s).errc = s.errc ∧ (complete s).errV = s.errV ∧ (complete s).chkCalc = s.chkCalc ∧
    (complete s).chkOk = s.chkOk ∧ (complete s).chkV = s.chkV ∧ (complete s).pkt = s.pkt ∧ (complete s).pktV = s.pktV ∧
    (complete s).par = s.par ∧ (complete s).parV = s.parV ∧ (complete s).rxbuf = s.rxbuf ∧ (complete s).txbuf = s.txbuf ∧
    (complete s).txV = s.txV ∧ (complete s).trace = s.trace ∧ (complete s).hostOps = s.hostOps ∧
    (complete s).hostActs = s.hostActs ∧ (complete s).readData = s.readData ∧ (complete s).dev = s.dev ∧
    (complete s).devIx = s.devIx ∧ (complete s).freeIx = s.freeIx :=
  ⟨rfl, rfl, rfl, rfl, rfl, rfl, rfl, rfl, rfl, rfl, rfl, rfl, rfl, rfl, rfl, rfl, rfl, rfl, rfl, rfl, rfl, rfl, rfl, rfl, rfl, rfl, rfl, rfl, rfl, rfl, rfl, rfl, rfl, rfl, rfl, rfl⟩

@[simp] theorem raise_fields (r : ResultCode) (s : State) :
    (raise r s).cfg = s.cfg ∧ (raise r s).devAddr = s.devAddr ∧ (raise r s).busy = false ∧ (raise r s).opreg = s.opreg ∧
    (raise r s).ustep = s.ustep ∧ (raise r s).phase = .idle ∧ (raise r s).pollcnt = s.pollcnt ∧
    (raise r s).abortPend = false ∧ (raise r s).done = true ∧ (raise r s).result = r ∧ (raise r s).errseen = true ∧
    (raise r s).tfcode = s.tfcode ∧ (raise r s).cmdval = s.cmdval ∧ (raise r s).cmdvalV = s.cmdvalV ∧
    (raise r s).rdy = s.rdy ∧ (raise r s).rdyV = s.rdyV ∧ (raise r s).errf = s.errf ∧ (raise r s).errc = s.errc ∧
    (raise r s).errV = s.errV ∧ (raise r s).chkCalc = s.chkCalc ∧ (raise r s).chkOk = s.chkOk ∧ (raise r s).chkV = s.chkV ∧
    (raise r s).pkt = s.pkt ∧ (raise r s).pktV = s.pktV ∧ (raise r s).par = s.par ∧ (raise r s).parV = s.parV ∧
    (raise r s).rxbuf = s.rxbuf ∧ (raise r s).txbuf = s.txbuf ∧ (raise r s).txV = s.txV ∧ (raise r s).trace = s.trace ∧
    (raise r s).hostOps = s.hostOps ∧ (raise r s).hostActs = s.hostActs ∧ (raise r s).readData = s.readData ∧
    (raise r s).dev = s.dev ∧ (raise r s).devIx = s.devIx ∧ (raise r s).freeIx = s.freeIx :=
  ⟨rfl, rfl, rfl, rfl, rfl, rfl, rfl, rfl, rfl, rfl, rfl, rfl, rfl, rfl, rfl, rfl, rfl, rfl, rfl, rfl, rfl, rfl, rfl, rfl, rfl, rfl, rfl, rfl, rfl, rfl, rfl, rfl, rfl, rfl, rfl, rfl⟩

@[simp] theorem raiseTransport_fields (code : Byte) (s : State) :
    (raiseTransport code s).cfg = s.cfg ∧ (raiseTransport code s).devAddr = s.devAddr ∧
    (raiseTransport code s).busy = false ∧ (raiseTransport code s).opreg = s.opreg ∧
    (raiseTransport code s).ustep = s.ustep ∧ (raiseTransport code s).phase = .idle ∧
    (raiseTransport code s).pollcnt = s.pollcnt ∧ (raiseTransport code s).abortPend = false ∧
    (raiseTransport code s).done = true ∧ (raiseTransport code s).result = .transportError ∧
    (raiseTransport code s).errseen = true ∧ (raiseTransport code s).tfcode = code ∧
    (raiseTransport code s).cmdval = s.cmdval ∧ (raiseTransport code s).cmdvalV = s.cmdvalV ∧
    (raiseTransport code s).rdy = s.rdy ∧ (raiseTransport code s).rdyV = s.rdyV ∧ (raiseTransport code s).errf = s.errf ∧
    (raiseTransport code s).errc = s.errc ∧ (raiseTransport code s).errV = s.errV ∧
    (raiseTransport code s).chkCalc = s.chkCalc ∧ (raiseTransport code s).chkOk = s.chkOk ∧
    (raiseTransport code s).chkV = s.chkV ∧ (raiseTransport code s).pkt = s.pkt ∧ (raiseTransport code s).pktV = s.pktV ∧
    (raiseTransport code s).par = s.par ∧ (raiseTransport code s).parV = s.parV ∧ (raiseTransport code s).rxbuf = s.rxbuf ∧
    (raiseTransport code s).txbuf = s.txbuf ∧ (raiseTransport code s).txV = s.txV ∧ (raiseTransport code s).trace = s.trace ∧
    (raiseTransport code s).hostOps = s.hostOps ∧ (raiseTransport code s).hostActs = s.hostActs ∧
    (raiseTransport code s).readData = s.readData ∧ (raiseTransport code s).dev = s.dev ∧
    (raiseTransport code s).devIx = s.devIx ∧ (raiseTransport code s).freeIx = s.freeIx :=
  ⟨rfl, rfl, rfl, rfl, rfl, rfl, rfl, rfl, rfl, rfl, rfl, rfl, rfl, rfl, rfl, rfl, rfl, rfl, rfl, rfl, rfl, rfl, rfl, rfl, rfl, rfl, rfl, rfl, rfl, rfl, rfl, rfl, rfl, rfl, rfl, rfl⟩

@[simp] theorem invalidateRdy_fields (s : State) :
    (invalidateRdy s).cfg = s.cfg ∧ (invalidateRdy s).devAddr = s.devAddr ∧ (invalidateRdy s).busy = s.busy ∧
    (invalidateRdy s).opreg = s.opreg ∧ (invalidateRdy s).ustep = s.ustep ∧ (invalidateRdy s).phase = s.phase ∧
    (invalidateRdy s).pollcnt = s.pollcnt ∧ (invalidateRdy s).abortPend = s.abortPend ∧ (invalidateRdy s).done = s.done ∧
    (invalidateRdy s).result = s.result ∧ (invalidateRdy s).errseen = s.errseen ∧ (invalidateRdy s).tfcode = s.tfcode ∧
    (invalidateRdy s).cmdval = s.cmdval ∧ (invalidateRdy s).cmdvalV = s.cmdvalV ∧
    (invalidateRdy s).rdy = (freeAt s 0).getLsbD 0 ∧ (invalidateRdy s).rdyV = false ∧ (invalidateRdy s).errf = s.errf ∧
    (invalidateRdy s).errc = s.errc ∧ (invalidateRdy s).errV = s.errV ∧ (invalidateRdy s).chkCalc = s.chkCalc ∧
    (invalidateRdy s).chkOk = s.chkOk ∧ (invalidateRdy s).chkV = s.chkV ∧ (invalidateRdy s).pkt = s.pkt ∧
    (invalidateRdy s).pktV = s.pktV ∧ (invalidateRdy s).par = s.par ∧ (invalidateRdy s).parV = s.parV ∧
    (invalidateRdy s).rxbuf = s.rxbuf ∧ (invalidateRdy s).txbuf = s.txbuf ∧ (invalidateRdy s).txV = s.txV ∧
    (invalidateRdy s).trace = s.trace ∧ (invalidateRdy s).hostOps = s.hostOps ∧ (invalidateRdy s).hostActs = s.hostActs ∧
    (invalidateRdy s).readData = s.readData ∧ (invalidateRdy s).dev = s.dev ∧ (invalidateRdy s).devIx = s.devIx ∧
    (invalidateRdy s).freeIx = s.freeIx + 1 :=
  ⟨rfl, rfl, rfl, rfl, rfl, rfl, rfl, rfl, rfl, rfl, rfl, rfl, rfl, rfl, rfl, rfl, rfl, rfl, rfl, rfl, rfl, rfl, rfl, rfl, rfl, rfl, rfl, rfl, rfl, rfl, rfl, rfl, rfl, rfl, rfl, rfl⟩

@[simp] theorem invalidateErr_fields (s : State) :
    (invalidateErr s).cfg = s.cfg ∧ (invalidateErr s).devAddr = s.devAddr ∧ (invalidateErr s).busy = s.busy ∧
    (invalidateErr s).opreg = s.opreg ∧ (invalidateErr s).ustep = s.ustep ∧ (invalidateErr s).phase = s.phase ∧
    (invalidateErr s).pollcnt = s.pollcnt ∧ (invalidateErr s).abortPend = s.abortPend ∧ (invalidateErr s).done = s.done ∧
    (invalidateErr s).result = s.result ∧ (invalidateErr s).errseen = s.errseen ∧ (invalidateErr s).tfcode = s.tfcode ∧
    (invalidateErr s).cmdval = s.cmdval ∧ (invalidateErr s).cmdvalV = s.cmdvalV ∧ (invalidateErr s).rdy = s.rdy ∧
    (invalidateErr s).rdyV = s.rdyV ∧ (invalidateErr s).errf = (freeAt s 0).setWidth 2 ∧
    (invalidateErr s).errc = errMap ((freeAt s 1).setWidth 8) ∧ (invalidateErr s).errV = false ∧
    (invalidateErr s).chkCalc = s.chkCalc ∧ (invalidateErr s).chkOk = s.chkOk ∧ (invalidateErr s).chkV = s.chkV ∧
    (invalidateErr s).pkt = s.pkt ∧ (invalidateErr s).pktV = s.pktV ∧ (invalidateErr s).par = s.par ∧
    (invalidateErr s).parV = s.parV ∧ (invalidateErr s).rxbuf = s.rxbuf ∧ (invalidateErr s).txbuf = s.txbuf ∧
    (invalidateErr s).txV = s.txV ∧ (invalidateErr s).trace = s.trace ∧ (invalidateErr s).hostOps = s.hostOps ∧
    (invalidateErr s).hostActs = s.hostActs ∧ (invalidateErr s).readData = s.readData ∧ (invalidateErr s).dev = s.dev ∧
    (invalidateErr s).devIx = s.devIx ∧ (invalidateErr s).freeIx = s.freeIx + 2 :=
  ⟨rfl, rfl, rfl, rfl, rfl, rfl, rfl, rfl, rfl, rfl, rfl, rfl, rfl, rfl, rfl, rfl, rfl, rfl, rfl, rfl, rfl, rfl, rfl, rfl, rfl, rfl, rfl, rfl, rfl, rfl, rfl, rfl, rfl, rfl, rfl, rfl⟩

@[simp] theorem invalidateChk_fields (s : State) :
    (invalidateChk s).cfg = s.cfg ∧ (invalidateChk s).devAddr = s.devAddr ∧ (invalidateChk s).busy = s.busy ∧
    (invalidateChk s).opreg = s.opreg ∧ (invalidateChk s).ustep = s.ustep ∧ (invalidateChk s).phase = s.phase ∧
    (invalidateChk s).pollcnt = s.pollcnt ∧ (invalidateChk s).abortPend = s.abortPend ∧ (invalidateChk s).done = s.done ∧
    (invalidateChk s).result = s.result ∧ (invalidateChk s).errseen = s.errseen ∧ (invalidateChk s).tfcode = s.tfcode ∧
    (invalidateChk s).cmdval = s.cmdval ∧ (invalidateChk s).cmdvalV = s.cmdvalV ∧ (invalidateChk s).rdy = s.rdy ∧
    (invalidateChk s).rdyV = s.rdyV ∧ (invalidateChk s).errf = s.errf ∧ (invalidateChk s).errc = s.errc ∧
    (invalidateChk s).errV = s.errV ∧ (invalidateChk s).chkCalc = (freeAt s 0).setWidth 8 ∧
    (invalidateChk s).chkOk = (freeAt s 1).getLsbD 0 ∧ (invalidateChk s).chkV = false ∧ (invalidateChk s).pkt = s.pkt ∧
    (invalidateChk s).pktV = s.pktV ∧ (invalidateChk s).par = s.par ∧ (invalidateChk s).parV = s.parV ∧
    (invalidateChk s).rxbuf = s.rxbuf ∧ (invalidateChk s).txbuf = s.txbuf ∧ (invalidateChk s).txV = s.txV ∧
    (invalidateChk s).trace = s.trace ∧ (invalidateChk s).hostOps = s.hostOps ∧ (invalidateChk s).hostActs = s.hostActs ∧
    (invalidateChk s).readData = s.readData ∧ (invalidateChk s).dev = s.dev ∧ (invalidateChk s).devIx = s.devIx ∧
    (invalidateChk s).freeIx = s.freeIx + 2 :=
  ⟨rfl, rfl, rfl, rfl, rfl, rfl, rfl, rfl, rfl, rfl, rfl, rfl, rfl, rfl, rfl, rfl, rfl, rfl, rfl, rfl, rfl, rfl, rfl, rfl, rfl, rfl, rfl, rfl, rfl, rfl, rfl, rfl, rfl, rfl, rfl, rfl⟩

@[simp] theorem invalidatePkt_fields (s : State) :
    (invalidatePkt s).cfg = s.cfg ∧ (invalidatePkt s).devAddr = s.devAddr ∧ (invalidatePkt s).busy = s.busy ∧
    (invalidatePkt s).opreg = s.opreg ∧ (invalidatePkt s).ustep = s.ustep ∧ (invalidatePkt s).phase = s.phase ∧
    (invalidatePkt s).pollcnt = s.pollcnt ∧ (invalidatePkt s).abortPend = s.abortPend ∧ (invalidatePkt s).done = s.done ∧
    (invalidatePkt s).result = s.result ∧ (invalidatePkt s).errseen = s.errseen ∧ (invalidatePkt s).tfcode = s.tfcode ∧
    (invalidatePkt s).cmdval = s.cmdval ∧ (invalidatePkt s).cmdvalV = s.cmdvalV ∧ (invalidatePkt s).rdy = s.rdy ∧
    (invalidatePkt s).rdyV = s.rdyV ∧ (invalidatePkt s).errf = s.errf ∧ (invalidatePkt s).errc = s.errc ∧
    (invalidatePkt s).errV = s.errV ∧ (invalidatePkt s).chkCalc = s.chkCalc ∧ (invalidatePkt s).chkOk = s.chkOk ∧
    (invalidatePkt s).chkV = s.chkV ∧ (invalidatePkt s).pktV = false ∧ (invalidatePkt s).par = s.par ∧
    (invalidatePkt s).parV = s.parV ∧ (invalidatePkt s).rxbuf = s.rxbuf ∧ (invalidatePkt s).txbuf = s.txbuf ∧
    (invalidatePkt s).txV = s.txV ∧ (invalidatePkt s).trace = s.trace ∧ (invalidatePkt s).hostOps = s.hostOps ∧
    (invalidatePkt s).hostActs = s.hostActs ∧ (invalidatePkt s).readData = s.readData ∧ (invalidatePkt s).dev = s.dev ∧
    (invalidatePkt s).devIx = s.devIx ∧ (invalidatePkt s).freeIx = s.freeIx + 7 :=
  ⟨rfl, rfl, rfl, rfl, rfl, rfl, rfl, rfl, rfl, rfl, rfl, rfl, rfl, rfl, rfl, rfl, rfl, rfl, rfl, rfl, rfl, rfl, rfl, rfl, rfl, rfl, rfl, rfl, rfl, rfl, rfl, rfl, rfl, rfl, rfl⟩

@[simp] theorem invalidatePar_fields (s : State) :
    (invalidatePar s).cfg = s.cfg ∧ (invalidatePar s).devAddr = s.devAddr ∧ (invalidatePar s).busy = s.busy ∧
    (invalidatePar s).opreg = s.opreg ∧ (invalidatePar s).ustep = s.ustep ∧ (invalidatePar s).phase = s.phase ∧
    (invalidatePar s).pollcnt = s.pollcnt ∧ (invalidatePar s).abortPend = s.abortPend ∧ (invalidatePar s).done = s.done ∧
    (invalidatePar s).result = s.result ∧ (invalidatePar s).errseen = s.errseen ∧ (invalidatePar s).tfcode = s.tfcode ∧
    (invalidatePar s).cmdval = s.cmdval ∧ (invalidatePar s).cmdvalV = s.cmdvalV ∧ (invalidatePar s).rdy = s.rdy ∧
    (invalidatePar s).rdyV = s.rdyV ∧ (invalidatePar s).errf = s.errf ∧ (invalidatePar s).errc = s.errc ∧
    (invalidatePar s).errV = s.errV ∧ (invalidatePar s).chkCalc = s.chkCalc ∧ (invalidatePar s).chkOk = s.chkOk ∧
    (invalidatePar s).chkV = s.chkV ∧ (invalidatePar s).pkt = s.pkt ∧ (invalidatePar s).pktV = s.pktV ∧
    (invalidatePar s).parV = 0b0000#4 ∧ (invalidatePar s).rxbuf = s.rxbuf ∧ (invalidatePar s).txbuf = s.txbuf ∧
    (invalidatePar s).txV = s.txV ∧ (invalidatePar s).trace = s.trace ∧ (invalidatePar s).hostOps = s.hostOps ∧
    (invalidatePar s).hostActs = s.hostActs ∧ (invalidatePar s).readData = s.readData ∧ (invalidatePar s).dev = s.dev ∧
    (invalidatePar s).devIx = s.devIx ∧ (invalidatePar s).freeIx = s.freeIx + 4 :=
  ⟨rfl, rfl, rfl, rfl, rfl, rfl, rfl, rfl, rfl, rfl, rfl, rfl, rfl, rfl, rfl, rfl, rfl, rfl, rfl, rfl, rfl, rfl, rfl, rfl, rfl, rfl, rfl, rfl, rfl, rfl, rfl, rfl, rfl, rfl, rfl⟩

@[simp] theorem invalidateTx_fields (s : State) :
    (invalidateTx s).cfg = s.cfg ∧ (invalidateTx s).devAddr = s.devAddr ∧ (invalidateTx s).busy = s.busy ∧
    (invalidateTx s).opreg = s.opreg ∧ (invalidateTx s).ustep = s.ustep ∧ (invalidateTx s).phase = s.phase ∧
    (invalidateTx s).pollcnt = s.pollcnt ∧ (invalidateTx s).abortPend = s.abortPend ∧ (invalidateTx s).done = s.done ∧
    (invalidateTx s).result = s.result ∧ (invalidateTx s).errseen = s.errseen ∧ (invalidateTx s).tfcode = s.tfcode ∧
    (invalidateTx s).cmdval = s.cmdval ∧ (invalidateTx s).cmdvalV = s.cmdvalV ∧ (invalidateTx s).rdy = s.rdy ∧
    (invalidateTx s).rdyV = s.rdyV ∧ (invalidateTx s).errf = s.errf ∧ (invalidateTx s).errc = s.errc ∧
    (invalidateTx s).errV = s.errV ∧ (invalidateTx s).chkCalc = s.chkCalc ∧ (invalidateTx s).chkOk = s.chkOk ∧
    (invalidateTx s).chkV = s.chkV ∧ (invalidateTx s).pkt = s.pkt ∧ (invalidateTx s).pktV = s.pktV ∧
    (invalidateTx s).par = s.par ∧ (invalidateTx s).parV = s.parV ∧ (invalidateTx s).rxbuf = s.rxbuf ∧
    (invalidateTx s).txV = false ∧ (invalidateTx s).trace = s.trace ∧ (invalidateTx s).hostOps = s.hostOps ∧
    (invalidateTx s).hostActs = s.hostActs ∧ (invalidateTx s).readData = s.readData ∧ (invalidateTx s).dev = s.dev ∧
    (invalidateTx s).devIx = s.devIx ∧ (invalidateTx s).freeIx = s.freeIx + 8 :=
  ⟨rfl, rfl, rfl, rfl, rfl, rfl, rfl, rfl, rfl, rfl, rfl, rfl, rfl, rfl, rfl, rfl, rfl, rfl, rfl, rfl, rfl, rfl, rfl, rfl, rfl, rfl, rfl, rfl, rfl, rfl, rfl, rfl, rfl, rfl, rfl⟩

@[simp] theorem clearRx_fields (s : State) :
    (clearRx s).cfg = s.cfg ∧ (clearRx s).devAddr = s.devAddr ∧ (clearRx s).busy = s.busy ∧ (clearRx s).opreg = s.opreg ∧
    (clearRx s).ustep = s.ustep ∧ (clearRx s).phase = s.phase ∧ (clearRx s).pollcnt = s.pollcnt ∧
    (clearRx s).abortPend = s.abortPend ∧ (clearRx s).done = s.done ∧ (clearRx s).result = s.result ∧
    (clearRx s).errseen = s.errseen ∧ (clearRx s).tfcode = s.tfcode ∧ (clearRx s).cmdval = s.cmdval ∧
    (clearRx s).cmdvalV = s.cmdvalV ∧ (clearRx s).rdy = s.rdy ∧ (clearRx s).rdyV = s.rdyV ∧ (clearRx s).errf = s.errf ∧
    (clearRx s).errc = s.errc ∧ (clearRx s).errV = s.errV ∧ (clearRx s).chkCalc = s.chkCalc ∧ (clearRx s).chkOk = s.chkOk ∧
    (clearRx s).chkV = s.chkV ∧ (clearRx s).pkt = s.pkt ∧ (clearRx s).pktV = s.pktV ∧ (clearRx s).par = s.par ∧
    (clearRx s).parV = s.parV ∧ (clearRx s).rxbuf = [] ∧ (clearRx s).txbuf = s.txbuf ∧ (clearRx s).txV = s.txV ∧
    (clearRx s).trace = s.trace ∧ (clearRx s).hostOps = s.hostOps ∧ (clearRx s).hostActs = s.hostActs ∧
    (clearRx s).readData = s.readData ∧ (clearRx s).dev = s.dev ∧ (clearRx s).devIx = s.devIx ∧
    (clearRx s).freeIx = s.freeIx :=
  ⟨rfl, rfl, rfl, rfl, rfl, rfl, rfl, rfl, rfl, rfl, rfl, rfl, rfl, rfl, rfl, rfl, rfl, rfl, rfl, rfl, rfl, rfl, rfl, rfl, rfl, rfl, rfl, rfl, rfl, rfl, rfl, rfl, rfl, rfl, rfl, rfl⟩

@[simp] theorem emit_fields (e : BusEvent) (s : State) :
    (emit e s).cfg = s.cfg ∧ (emit e s).devAddr = s.devAddr ∧ (emit e s).busy = s.busy ∧ (emit e s).opreg = s.opreg ∧
    (emit e s).ustep = s.ustep ∧ (emit e s).phase = s.phase ∧ (emit e s).pollcnt = s.pollcnt ∧
    (emit e s).abortPend = s.abortPend ∧ (emit e s).done = s.done ∧ (emit e s).result = s.result ∧
    (emit e s).errseen = s.errseen ∧ (emit e s).tfcode = s.tfcode ∧ (emit e s).cmdval = s.cmdval ∧
    (emit e s).cmdvalV = s.cmdvalV ∧ (emit e s).rdy = s.rdy ∧ (emit e s).rdyV = s.rdyV ∧ (emit e s).errf = s.errf ∧
    (emit e s).errc = s.errc ∧ (emit e s).errV = s.errV ∧ (emit e s).chkCalc = s.chkCalc ∧ (emit e s).chkOk = s.chkOk ∧
    (emit e s).chkV = s.chkV ∧ (emit e s).pkt = s.pkt ∧ (emit e s).pktV = s.pktV ∧ (emit e s).par = s.par ∧
    (emit e s).parV = s.parV ∧ (emit e s).rxbuf = s.rxbuf ∧ (emit e s).txbuf = s.txbuf ∧ (emit e s).txV = s.txV ∧
    (emit e s).trace = s.trace ++ [e] ∧ (emit e s).hostOps = s.hostOps ∧ (emit e s).hostActs = s.hostActs ∧
    (emit e s).readData = s.readData ∧ (emit e s).dev = s.dev ∧ (emit e s).devIx = s.devIx ∧ (emit e s).freeIx = s.freeIx :=
  ⟨rfl, rfl, rfl, rfl, rfl, rfl, rfl, rfl, rfl, rfl, rfl, rfl, rfl, rfl, rfl, rfl, rfl, rfl, rfl, rfl, rfl, rfl, rfl, rfl, rfl, rfl, rfl, rfl, rfl, rfl, rfl, rfl, rfl, rfl, rfl, rfl⟩

@[simp] theorem gotoItem_fields (n : Nat) (s : State) :
    (gotoItem n s).cfg = s.cfg ∧ (gotoItem n s).devAddr = s.devAddr ∧ (gotoItem n s).busy = s.busy ∧
    (gotoItem n s).opreg = s.opreg ∧ (gotoItem n s).ustep = ⟨n, .opening⟩ ∧ (gotoItem n s).phase = s.phase ∧
    (gotoItem n s).pollcnt = s.pollcnt ∧ (gotoItem n s).abortPend = s.abortPend ∧ (gotoItem n s).done = s.done ∧
    (gotoItem n s).result = s.result ∧ (gotoItem n s).errseen = s.errseen ∧ (gotoItem n s).tfcode = s.tfcode ∧
    (gotoItem n s).cmdval = s.cmdval ∧ (gotoItem n s).cmdvalV = s.cmdvalV ∧ (gotoItem n s).rdy = s.rdy ∧
    (gotoItem n s).rdyV = s.rdyV ∧ (gotoItem n s).errf = s.errf ∧ (gotoItem n s).errc = s.errc ∧
    (gotoItem n s).errV = s.errV ∧ (gotoItem n s).chkCalc = s.chkCalc ∧ (gotoItem n s).chkOk = s.chkOk ∧
    (gotoItem n s).chkV = s.chkV ∧ (gotoItem n s).pkt = s.pkt ∧ (gotoItem n s).pktV = s.pktV ∧ (gotoItem n s).par = s.par ∧
    (gotoItem n s).parV = s.parV ∧ (gotoItem n s).rxbuf = s.rxbuf ∧ (gotoItem n s).txbuf = s.txbuf ∧
    (gotoItem n s).txV = s.txV ∧ (gotoItem n s).trace = s.trace ∧ (gotoItem n s).hostOps = s.hostOps ∧
    (gotoItem n s).hostActs = s.hostActs ∧ (gotoItem n s).readData = s.readData ∧ (gotoItem n s).dev = s.dev ∧
    (gotoItem n s).devIx = s.devIx ∧ (gotoItem n s).freeIx = s.freeIx :=
  ⟨rfl, rfl, rfl, rfl, rfl, rfl, rfl, rfl, rfl, rfl, rfl, rfl, rfl, rfl, rfl, rfl, rfl, rfl, rfl, rfl, rfl, rfl, rfl, rfl, rfl, rfl, rfl, rfl, rfl, rfl, rfl, rfl, rfl, rfl, rfl, rfl⟩

@[simp] theorem latch_fields (w : Word) (s : State) :
    (latch w s).cfg = s.cfg ∧ (latch w s).devAddr = s.devAddr ∧ (latch w s).busy = true ∧ (latch w s).opreg = w ∧
    (latch w s).ustep = ⟨0, .opening⟩ ∧ (latch w s).phase = .idle ∧ (latch w s).pollcnt = s.pollcnt ∧
    (latch w s).abortPend = false ∧ (latch w s).done = s.done ∧ (latch w s).result = s.result ∧
    (latch w s).errseen = s.errseen ∧ (latch w s).tfcode = s.tfcode ∧ (latch w s).cmdval = s.cmdval ∧
    (latch w s).cmdvalV = s.cmdvalV ∧ (latch w s).rdy = s.rdy ∧ (latch w s).rdyV = s.rdyV ∧ (latch w s).errf = s.errf ∧
    (latch w s).errc = s.errc ∧ (latch w s).errV = s.errV ∧ (latch w s).chkCalc = s.chkCalc ∧ (latch w s).chkOk = s.chkOk ∧
    (latch w s).chkV = s.chkV ∧ (latch w s).pkt = s.pkt ∧ (latch w s).pktV = s.pktV ∧ (latch w s).par = s.par ∧
    (latch w s).parV = s.parV ∧ (latch w s).rxbuf = s.rxbuf ∧ (latch w s).txbuf = s.txbuf ∧ (latch w s).txV = s.txV ∧
    (latch w s).trace = s.trace ∧ (latch w s).hostOps = s.hostOps ∧ (latch w s).hostActs = s.hostActs ∧
    (latch w s).readData = s.readData ∧ (latch w s).dev = s.dev ∧ (latch w s).devIx = s.devIx ∧
    (latch w s).freeIx = s.freeIx :=
  ⟨rfl, rfl, rfl, rfl, rfl, rfl, rfl, rfl, rfl, rfl, rfl, rfl, rfl, rfl, rfl, rfl, rfl, rfl, rfl, rfl, rfl, rfl, rfl, rfl, rfl, rfl, rfl, rfl, rfl, rfl, rfl, rfl, rfl, rfl, rfl, rfl⟩

@[simp] theorem clearDone_fields (s : State) :
    (clearDone s).cfg = s.cfg ∧ (clearDone s).devAddr = s.devAddr ∧ (clearDone s).busy = s.busy ∧
    (clearDone s).opreg = s.opreg ∧ (clearDone s).ustep = s.ustep ∧ (clearDone s).phase = s.phase ∧
    (clearDone s).pollcnt = s.pollcnt ∧ (clearDone s).abortPend = s.abortPend ∧ (clearDone s).done = false ∧
    (clearDone s).result = s.result ∧ (clearDone s).errseen = s.errseen ∧ (clearDone s).tfcode = s.tfcode ∧
    (clearDone s).cmdval = s.cmdval ∧ (clearDone s).cmdvalV = s.cmdvalV ∧ (clearDone s).rdy = s.rdy ∧
    (clearDone s).rdyV = s.rdyV ∧ (clearDone s).errf = s.errf ∧ (clearDone s).errc = s.errc ∧ (clearDone s).errV = s.errV ∧
    (clearDone s).chkCalc = s.chkCalc ∧ (clearDone s).chkOk = s.chkOk ∧ (clearDone s).chkV = s.chkV ∧
    (clearDone s).pkt = s.pkt ∧ (clearDone s).pktV = s.pktV ∧ (clearDone s).par = s.par ∧ (clearDone s).parV = s.parV ∧
    (clearDone s).rxbuf = s.rxbuf ∧ (clearDone s).txbuf = s.txbuf ∧ (clearDone s).txV = s.txV ∧
    (clearDone s).trace = s.trace ∧ (clearDone s).hostOps = s.hostOps ∧ (clearDone s).hostActs = s.hostActs ∧
    (clearDone s).readData = s.readData ∧ (clearDone s).dev = s.dev ∧ (clearDone s).devIx = s.devIx ∧
    (clearDone s).freeIx = s.freeIx :=
  ⟨rfl, rfl, rfl, rfl, rfl, rfl, rfl, rfl, rfl, rfl, rfl, rfl, rfl, rfl, rfl, rfl, rfl, rfl, rfl, rfl, rfl, rfl, rfl, rfl, rfl, rfl, rfl, rfl, rfl, rfl, rfl, rfl, rfl, rfl, rfl, rfl⟩

@[simp] theorem setPhase_fields (p : Phase) (s : State) :
    (setPhase p s).cfg = s.cfg ∧ (setPhase p s).devAddr = s.devAddr ∧ (setPhase p s).busy = s.busy ∧
    (setPhase p s).opreg = s.opreg ∧ (setPhase p s).ustep = s.ustep ∧ (setPhase p s).phase = p ∧
    (setPhase p s).pollcnt = s.pollcnt ∧ (setPhase p s).abortPend = s.abortPend ∧ (setPhase p s).done = s.done ∧
    (setPhase p s).result = s.result ∧ (setPhase p s).errseen = s.errseen ∧ (setPhase p s).tfcode = s.tfcode ∧
    (setPhase p s).cmdval = s.cmdval ∧ (setPhase p s).cmdvalV = s.cmdvalV ∧ (setPhase p s).rdy = s.rdy ∧
    (setPhase p s).rdyV = s.rdyV ∧ (setPhase p s).errf = s.errf ∧ (setPhase p s).errc = s.errc ∧
    (setPhase p s).errV = s.errV ∧ (setPhase p s).chkCalc = s.chkCalc ∧ (setPhase p s).chkOk = s.chkOk ∧
    (setPhase p s).chkV = s.chkV ∧ (setPhase p s).pkt = s.pkt ∧ (setPhase p s).pktV = s.pktV ∧ (setPhase p s).par = s.par ∧
    (setPhase p s).parV = s.parV ∧ (setPhase p s).rxbuf = s.rxbuf ∧ (setPhase p s).txbuf = s.txbuf ∧
    (setPhase p s).txV = s.txV ∧ (setPhase p s).trace = s.trace ∧ (setPhase p s).hostOps = s.hostOps ∧
    (setPhase p s).hostActs = s.hostActs ∧ (setPhase p s).readData = s.readData ∧ (setPhase p s).dev = s.dev ∧
    (setPhase p s).devIx = s.devIx ∧ (setPhase p s).freeIx = s.freeIx :=
  ⟨rfl, rfl, rfl, rfl, rfl, rfl, rfl, rfl, rfl, rfl, rfl, rfl, rfl, rfl, rfl, rfl, rfl, rfl, rfl, rfl, rfl, rfl, rfl, rfl, rfl, rfl, rfl, rfl, rfl, rfl, rfl, rfl, rfl, rfl, rfl, rfl⟩

@[simp] theorem loadCmdval_fields (v : Byte) (s : State) :
    (loadCmdval v s).cfg = s.cfg ∧ (loadCmdval v s).devAddr = s.devAddr ∧ (loadCmdval v s).busy = s.busy ∧
    (loadCmdval v s).opreg = s.opreg ∧ (loadCmdval v s).ustep = s.ustep ∧ (loadCmdval v s).phase = s.phase ∧
    (loadCmdval v s).pollcnt = s.pollcnt ∧ (loadCmdval v s).abortPend = s.abortPend ∧ (loadCmdval v s).done = s.done ∧
    (loadCmdval v s).result = s.result ∧ (loadCmdval v s).errseen = s.errseen ∧ (loadCmdval v s).tfcode = s.tfcode ∧
    (loadCmdval v s).cmdval = v ∧ (loadCmdval v s).cmdvalV = true ∧ (loadCmdval v s).rdy = s.rdy ∧
    (loadCmdval v s).rdyV = s.rdyV ∧ (loadCmdval v s).errf = s.errf ∧ (loadCmdval v s).errc = s.errc ∧
    (loadCmdval v s).errV = s.errV ∧ (loadCmdval v s).chkCalc = s.chkCalc ∧ (loadCmdval v s).chkOk = s.chkOk ∧
    (loadCmdval v s).chkV = s.chkV ∧ (loadCmdval v s).pkt = s.pkt ∧ (loadCmdval v s).pktV = s.pktV ∧
    (loadCmdval v s).par = s.par ∧ (loadCmdval v s).parV = s.parV ∧ (loadCmdval v s).rxbuf = s.rxbuf ∧
    (loadCmdval v s).txbuf = s.txbuf ∧ (loadCmdval v s).txV = s.txV ∧ (loadCmdval v s).trace = s.trace ∧
    (loadCmdval v s).hostOps = s.hostOps ∧ (loadCmdval v s).hostActs = s.hostActs ∧ (loadCmdval v s).readData = s.readData ∧
    (loadCmdval v s).dev = s.dev ∧ (loadCmdval v s).devIx = s.devIx ∧ (loadCmdval v s).freeIx = s.freeIx :=
  ⟨rfl, rfl, rfl, rfl, rfl, rfl, rfl, rfl, rfl, rfl, rfl, rfl, rfl, rfl, rfl, rfl, rfl, rfl, rfl, rfl, rfl, rfl, rfl, rfl, rfl, rfl, rfl, rfl, rfl, rfl, rfl, rfl, rfl, rfl, rfl, rfl⟩

@[simp] theorem dropCmdval_fields (s : State) :
    (dropCmdval s).cfg = s.cfg ∧ (dropCmdval s).devAddr = s.devAddr ∧ (dropCmdval s).busy = s.busy ∧
    (dropCmdval s).opreg = s.opreg ∧ (dropCmdval s).ustep = s.ustep ∧ (dropCmdval s).phase = s.phase ∧
    (dropCmdval s).pollcnt = s.pollcnt ∧ (dropCmdval s).abortPend = s.abortPend ∧ (dropCmdval s).done = s.done ∧
    (dropCmdval s).result = s.result ∧ (dropCmdval s).errseen = s.errseen ∧ (dropCmdval s).tfcode = s.tfcode ∧
    (dropCmdval s).cmdval = s.cmdval ∧ (dropCmdval s).cmdvalV = false ∧ (dropCmdval s).rdy = s.rdy ∧
    (dropCmdval s).rdyV = s.rdyV ∧ (dropCmdval s).errf = s.errf ∧ (dropCmdval s).errc = s.errc ∧
    (dropCmdval s).errV = s.errV ∧ (dropCmdval s).chkCalc = s.chkCalc ∧ (dropCmdval s).chkOk = s.chkOk ∧
    (dropCmdval s).chkV = s.chkV ∧ (dropCmdval s).pkt = s.pkt ∧ (dropCmdval s).pktV = s.pktV ∧ (dropCmdval s).par = s.par ∧
    (dropCmdval s).parV = s.parV ∧ (dropCmdval s).rxbuf = s.rxbuf ∧ (dropCmdval s).txbuf = s.txbuf ∧
    (dropCmdval s).txV = s.txV ∧ (dropCmdval s).trace = s.trace ∧ (dropCmdval s).hostOps = s.hostOps ∧
    (dropCmdval s).hostActs = s.hostActs ∧ (dropCmdval s).readData = s.readData ∧ (dropCmdval s).dev = s.dev ∧
    (dropCmdval s).devIx = s.devIx ∧ (dropCmdval s).freeIx = s.freeIx :=
  ⟨rfl, rfl, rfl, rfl, rfl, rfl, rfl, rfl, rfl, rfl, rfl, rfl, rfl, rfl, rfl, rfl, rfl, rfl, rfl, rfl, rfl, rfl, rfl, rfl, rfl, rfl, rfl, rfl, rfl, rfl, rfl, rfl, rfl, rfl, rfl, rfl⟩

@[simp] theorem loadRdy_fields (v : Byte) (s : State) :
    (loadRdy v s).cfg = s.cfg ∧ (loadRdy v s).devAddr = s.devAddr ∧ (loadRdy v s).busy = s.busy ∧
    (loadRdy v s).opreg = s.opreg ∧ (loadRdy v s).ustep = s.ustep ∧ (loadRdy v s).phase = s.phase ∧
    (loadRdy v s).pollcnt = s.pollcnt ∧ (loadRdy v s).abortPend = s.abortPend ∧ (loadRdy v s).done = s.done ∧
    (loadRdy v s).result = s.result ∧ (loadRdy v s).errseen = s.errseen ∧ (loadRdy v s).tfcode = s.tfcode ∧
    (loadRdy v s).cmdval = s.cmdval ∧ (loadRdy v s).cmdvalV = s.cmdvalV ∧ (loadRdy v s).rdy = readyBit v ∧
    (loadRdy v s).rdyV = true ∧ (loadRdy v s).errf = s.errf ∧ (loadRdy v s).errc = s.errc ∧ (loadRdy v s).errV = s.errV ∧
    (loadRdy v s).chkCalc = s.chkCalc ∧ (loadRdy v s).chkOk = s.chkOk ∧ (loadRdy v s).chkV = s.chkV ∧
    (loadRdy v s).pkt = s.pkt ∧ (loadRdy v s).pktV = s.pktV ∧ (loadRdy v s).par = s.par ∧ (loadRdy v s).parV = s.parV ∧
    (loadRdy v s).rxbuf = s.rxbuf ∧ (loadRdy v s).txbuf = s.txbuf ∧ (loadRdy v s).txV = s.txV ∧
    (loadRdy v s).trace = s.trace ∧ (loadRdy v s).hostOps = s.hostOps ∧ (loadRdy v s).hostActs = s.hostActs ∧
    (loadRdy v s).readData = s.readData ∧ (loadRdy v s).dev = s.dev ∧ (loadRdy v s).devIx = s.devIx ∧
    (loadRdy v s).freeIx = s.freeIx :=
  ⟨rfl, rfl, rfl, rfl, rfl, rfl, rfl, rfl, rfl, rfl, rfl, rfl, rfl, rfl, rfl, rfl, rfl, rfl, rfl, rfl, rfl, rfl, rfl, rfl, rfl, rfl, rfl, rfl, rfl, rfl, rfl, rfl, rfl, rfl, rfl, rfl⟩

@[simp] theorem clearCount_fields (s : State) :
    (clearCount s).cfg = s.cfg ∧ (clearCount s).devAddr = s.devAddr ∧ (clearCount s).busy = s.busy ∧
    (clearCount s).opreg = s.opreg ∧ (clearCount s).ustep = s.ustep ∧ (clearCount s).phase = s.phase ∧
    (clearCount s).pollcnt = 0#16 ∧ (clearCount s).abortPend = s.abortPend ∧ (clearCount s).done = s.done ∧
    (clearCount s).result = s.result ∧ (clearCount s).errseen = s.errseen ∧ (clearCount s).tfcode = s.tfcode ∧
    (clearCount s).cmdval = s.cmdval ∧ (clearCount s).cmdvalV = s.cmdvalV ∧ (clearCount s).rdy = s.rdy ∧
    (clearCount s).rdyV = s.rdyV ∧ (clearCount s).errf = s.errf ∧ (clearCount s).errc = s.errc ∧
    (clearCount s).errV = s.errV ∧ (clearCount s).chkCalc = s.chkCalc ∧ (clearCount s).chkOk = s.chkOk ∧
    (clearCount s).chkV = s.chkV ∧ (clearCount s).pkt = s.pkt ∧ (clearCount s).pktV = s.pktV ∧ (clearCount s).par = s.par ∧
    (clearCount s).parV = s.parV ∧ (clearCount s).rxbuf = s.rxbuf ∧ (clearCount s).txbuf = s.txbuf ∧
    (clearCount s).txV = s.txV ∧ (clearCount s).trace = s.trace ∧ (clearCount s).hostOps = s.hostOps ∧
    (clearCount s).hostActs = s.hostActs ∧ (clearCount s).readData = s.readData ∧ (clearCount s).dev = s.dev ∧
    (clearCount s).devIx = s.devIx ∧ (clearCount s).freeIx = s.freeIx :=
  ⟨rfl, rfl, rfl, rfl, rfl, rfl, rfl, rfl, rfl, rfl, rfl, rfl, rfl, rfl, rfl, rfl, rfl, rfl, rfl, rfl, rfl, rfl, rfl, rfl, rfl, rfl, rfl, rfl, rfl, rfl, rfl, rfl, rfl, rfl, rfl, rfl⟩

@[simp] theorem countAttempt_fields (s : State) :
    (countAttempt s).cfg = s.cfg ∧ (countAttempt s).devAddr = s.devAddr ∧ (countAttempt s).busy = s.busy ∧
    (countAttempt s).opreg = s.opreg ∧ (countAttempt s).ustep = s.ustep ∧ (countAttempt s).phase = s.phase ∧
    (countAttempt s).pollcnt = bumpCount s.pollcnt ∧ (countAttempt s).abortPend = s.abortPend ∧
    (countAttempt s).done = s.done ∧ (countAttempt s).result = s.result ∧ (countAttempt s).errseen = s.errseen ∧
    (countAttempt s).tfcode = s.tfcode ∧ (countAttempt s).cmdval = s.cmdval ∧ (countAttempt s).cmdvalV = s.cmdvalV ∧
    (countAttempt s).rdy = s.rdy ∧ (countAttempt s).rdyV = s.rdyV ∧ (countAttempt s).errf = s.errf ∧
    (countAttempt s).errc = s.errc ∧ (countAttempt s).errV = s.errV ∧ (countAttempt s).chkCalc = s.chkCalc ∧
    (countAttempt s).chkOk = s.chkOk ∧ (countAttempt s).chkV = s.chkV ∧ (countAttempt s).pkt = s.pkt ∧
    (countAttempt s).pktV = s.pktV ∧ (countAttempt s).par = s.par ∧ (countAttempt s).parV = s.parV ∧
    (countAttempt s).rxbuf = s.rxbuf ∧ (countAttempt s).txbuf = s.txbuf ∧ (countAttempt s).txV = s.txV ∧
    (countAttempt s).trace = s.trace ∧ (countAttempt s).hostOps = s.hostOps ∧ (countAttempt s).hostActs = s.hostActs ∧
    (countAttempt s).readData = s.readData ∧ (countAttempt s).dev = s.dev ∧ (countAttempt s).devIx = s.devIx ∧
    (countAttempt s).freeIx = s.freeIx :=
  ⟨rfl, rfl, rfl, rfl, rfl, rfl, rfl, rfl, rfl, rfl, rfl, rfl, rfl, rfl, rfl, rfl, rfl, rfl, rfl, rfl, rfl, rfl, rfl, rfl, rfl, rfl, rfl, rfl, rfl, rfl, rfl, rfl, rfl, rfl, rfl, rfl⟩

@[simp] theorem loadErr_fields (f : BitVec 2) (c : ErrorCode) (s : State) :
    (loadErr f c s).cfg = s.cfg ∧ (loadErr f c s).devAddr = s.devAddr ∧ (loadErr f c s).busy = s.busy ∧
    (loadErr f c s).opreg = s.opreg ∧ (loadErr f c s).ustep = s.ustep ∧ (loadErr f c s).phase = s.phase ∧
    (loadErr f c s).pollcnt = s.pollcnt ∧ (loadErr f c s).abortPend = s.abortPend ∧ (loadErr f c s).done = s.done ∧
    (loadErr f c s).result = s.result ∧ (loadErr f c s).errseen = s.errseen ∧ (loadErr f c s).tfcode = s.tfcode ∧
    (loadErr f c s).cmdval = s.cmdval ∧ (loadErr f c s).cmdvalV = s.cmdvalV ∧ (loadErr f c s).rdy = s.rdy ∧
    (loadErr f c s).rdyV = s.rdyV ∧ (loadErr f c s).errf = f ∧ (loadErr f c s).errc = c ∧ (loadErr f c s).errV = true ∧
    (loadErr f c s).chkCalc = s.chkCalc ∧ (loadErr f c s).chkOk = s.chkOk ∧ (loadErr f c s).chkV = s.chkV ∧
    (loadErr f c s).pkt = s.pkt ∧ (loadErr f c s).pktV = s.pktV ∧ (loadErr f c s).par = s.par ∧
    (loadErr f c s).parV = s.parV ∧ (loadErr f c s).rxbuf = s.rxbuf ∧ (loadErr f c s).txbuf = s.txbuf ∧
    (loadErr f c s).txV = s.txV ∧ (loadErr f c s).trace = s.trace ∧ (loadErr f c s).hostOps = s.hostOps ∧
    (loadErr f c s).hostActs = s.hostActs ∧ (loadErr f c s).readData = s.readData ∧ (loadErr f c s).dev = s.dev ∧
    (loadErr f c s).devIx = s.devIx ∧ (loadErr f c s).freeIx = s.freeIx :=
  ⟨rfl, rfl, rfl, rfl, rfl, rfl, rfl, rfl, rfl, rfl, rfl, rfl, rfl, rfl, rfl, rfl, rfl, rfl, rfl, rfl, rfl, rfl, rfl, rfl, rfl, rfl, rfl, rfl, rfl, rfl, rfl, rfl, rfl, rfl, rfl, rfl⟩

@[simp] theorem loadChk_fields (v : Byte) (ok : Bool) (s : State) :
    (loadChk v ok s).cfg = s.cfg ∧ (loadChk v ok s).devAddr = s.devAddr ∧ (loadChk v ok s).busy = s.busy ∧
    (loadChk v ok s).opreg = s.opreg ∧ (loadChk v ok s).ustep = s.ustep ∧ (loadChk v ok s).phase = s.phase ∧
    (loadChk v ok s).pollcnt = s.pollcnt ∧ (loadChk v ok s).abortPend = s.abortPend ∧ (loadChk v ok s).done = s.done ∧
    (loadChk v ok s).result = s.result ∧ (loadChk v ok s).errseen = s.errseen ∧ (loadChk v ok s).tfcode = s.tfcode ∧
    (loadChk v ok s).cmdval = s.cmdval ∧ (loadChk v ok s).cmdvalV = s.cmdvalV ∧ (loadChk v ok s).rdy = s.rdy ∧
    (loadChk v ok s).rdyV = s.rdyV ∧ (loadChk v ok s).errf = s.errf ∧ (loadChk v ok s).errc = s.errc ∧
    (loadChk v ok s).errV = s.errV ∧ (loadChk v ok s).chkCalc = v ∧ (loadChk v ok s).chkOk = ok ∧
    (loadChk v ok s).chkV = true ∧ (loadChk v ok s).pkt = s.pkt ∧ (loadChk v ok s).pktV = s.pktV ∧
    (loadChk v ok s).par = s.par ∧ (loadChk v ok s).parV = s.parV ∧ (loadChk v ok s).rxbuf = s.rxbuf ∧
    (loadChk v ok s).txbuf = s.txbuf ∧ (loadChk v ok s).txV = s.txV ∧ (loadChk v ok s).trace = s.trace ∧
    (loadChk v ok s).hostOps = s.hostOps ∧ (loadChk v ok s).hostActs = s.hostActs ∧ (loadChk v ok s).readData = s.readData ∧
    (loadChk v ok s).dev = s.dev ∧ (loadChk v ok s).devIx = s.devIx ∧ (loadChk v ok s).freeIx = s.freeIx :=
  ⟨rfl, rfl, rfl, rfl, rfl, rfl, rfl, rfl, rfl, rfl, rfl, rfl, rfl, rfl, rfl, rfl, rfl, rfl, rfl, rfl, rfl, rfl, rfl, rfl, rfl, rfl, rfl, rfl, rfl, rfl, rfl, rfl, rfl, rfl, rfl, rfl⟩

@[simp] theorem loadPkt_fields (p : Packet) (s : State) :
    (loadPkt p s).cfg = s.cfg ∧ (loadPkt p s).devAddr = s.devAddr ∧ (loadPkt p s).busy = s.busy ∧
    (loadPkt p s).opreg = s.opreg ∧ (loadPkt p s).ustep = s.ustep ∧ (loadPkt p s).phase = s.phase ∧
    (loadPkt p s).pollcnt = s.pollcnt ∧ (loadPkt p s).abortPend = s.abortPend ∧ (loadPkt p s).done = s.done ∧
    (loadPkt p s).result = s.result ∧ (loadPkt p s).errseen = s.errseen ∧ (loadPkt p s).tfcode = s.tfcode ∧
    (loadPkt p s).cmdval = s.cmdval ∧ (loadPkt p s).cmdvalV = s.cmdvalV ∧ (loadPkt p s).rdy = s.rdy ∧
    (loadPkt p s).rdyV = s.rdyV ∧ (loadPkt p s).errf = s.errf ∧ (loadPkt p s).errc = s.errc ∧ (loadPkt p s).errV = s.errV ∧
    (loadPkt p s).chkCalc = s.chkCalc ∧ (loadPkt p s).chkOk = s.chkOk ∧ (loadPkt p s).chkV = s.chkV ∧ (loadPkt p s).pkt = p ∧
    (loadPkt p s).pktV = true ∧ (loadPkt p s).par = s.par ∧ (loadPkt p s).parV = s.parV ∧ (loadPkt p s).rxbuf = s.rxbuf ∧
    (loadPkt p s).txbuf = s.txbuf ∧ (loadPkt p s).txV = s.txV ∧ (loadPkt p s).trace = s.trace ∧
    (loadPkt p s).hostOps = s.hostOps ∧ (loadPkt p s).hostActs = s.hostActs ∧ (loadPkt p s).readData = s.readData ∧
    (loadPkt p s).dev = s.dev ∧ (loadPkt p s).devIx = s.devIx ∧ (loadPkt p s).freeIx = s.freeIx :=
  ⟨rfl, rfl, rfl, rfl, rfl, rfl, rfl, rfl, rfl, rfl, rfl, rfl, rfl, rfl, rfl, rfl, rfl, rfl, rfl, rfl, rfl, rfl, rfl, rfl, rfl, rfl, rfl, rfl, rfl, rfl, rfl, rfl, rfl, rfl, rfl, rfl⟩

@[simp] theorem loadPar_fields (p : Params) (v : BitVec 4) (s : State) :
    (loadPar p v s).cfg = s.cfg ∧ (loadPar p v s).devAddr = s.devAddr ∧ (loadPar p v s).busy = s.busy ∧
    (loadPar p v s).opreg = s.opreg ∧ (loadPar p v s).ustep = s.ustep ∧ (loadPar p v s).phase = s.phase ∧
    (loadPar p v s).pollcnt = s.pollcnt ∧ (loadPar p v s).abortPend = s.abortPend ∧ (loadPar p v s).done = s.done ∧
    (loadPar p v s).result = s.result ∧ (loadPar p v s).errseen = s.errseen ∧ (loadPar p v s).tfcode = s.tfcode ∧
    (loadPar p v s).cmdval = s.cmdval ∧ (loadPar p v s).cmdvalV = s.cmdvalV ∧ (loadPar p v s).rdy = s.rdy ∧
    (loadPar p v s).rdyV = s.rdyV ∧ (loadPar p v s).errf = s.errf ∧ (loadPar p v s).errc = s.errc ∧
    (loadPar p v s).errV = s.errV ∧ (loadPar p v s).chkCalc = s.chkCalc ∧ (loadPar p v s).chkOk = s.chkOk ∧
    (loadPar p v s).chkV = s.chkV ∧ (loadPar p v s).pkt = s.pkt ∧ (loadPar p v s).pktV = s.pktV ∧ (loadPar p v s).par = p ∧
    (loadPar p v s).parV = v ∧ (loadPar p v s).rxbuf = s.rxbuf ∧ (loadPar p v s).txbuf = s.txbuf ∧
    (loadPar p v s).txV = s.txV ∧ (loadPar p v s).trace = s.trace ∧ (loadPar p v s).hostOps = s.hostOps ∧
    (loadPar p v s).hostActs = s.hostActs ∧ (loadPar p v s).readData = s.readData ∧ (loadPar p v s).dev = s.dev ∧
    (loadPar p v s).devIx = s.devIx ∧ (loadPar p v s).freeIx = s.freeIx :=
  ⟨rfl, rfl, rfl, rfl, rfl, rfl, rfl, rfl, rfl, rfl, rfl, rfl, rfl, rfl, rfl, rfl, rfl, rfl, rfl, rfl, rfl, rfl, rfl, rfl, rfl, rfl, rfl, rfl, rfl, rfl, rfl, rfl, rfl, rfl, rfl, rfl⟩

@[simp] theorem loadTx_fields (b : Vector Byte 8) (s : State) :
    (loadTx b s).cfg = s.cfg ∧ (loadTx b s).devAddr = s.devAddr ∧ (loadTx b s).busy = s.busy ∧ (loadTx b s).opreg = s.opreg ∧
    (loadTx b s).ustep = s.ustep ∧ (loadTx b s).phase = s.phase ∧ (loadTx b s).pollcnt = s.pollcnt ∧
    (loadTx b s).abortPend = s.abortPend ∧ (loadTx b s).done = s.done ∧ (loadTx b s).result = s.result ∧
    (loadTx b s).errseen = s.errseen ∧ (loadTx b s).tfcode = s.tfcode ∧ (loadTx b s).cmdval = s.cmdval ∧
    (loadTx b s).cmdvalV = s.cmdvalV ∧ (loadTx b s).rdy = s.rdy ∧ (loadTx b s).rdyV = s.rdyV ∧ (loadTx b s).errf = s.errf ∧
    (loadTx b s).errc = s.errc ∧ (loadTx b s).errV = s.errV ∧ (loadTx b s).chkCalc = s.chkCalc ∧
    (loadTx b s).chkOk = s.chkOk ∧ (loadTx b s).chkV = s.chkV ∧ (loadTx b s).pkt = s.pkt ∧ (loadTx b s).pktV = s.pktV ∧
    (loadTx b s).par = s.par ∧ (loadTx b s).parV = s.parV ∧ (loadTx b s).rxbuf = s.rxbuf ∧ (loadTx b s).txbuf = b ∧
    (loadTx b s).txV = true ∧ (loadTx b s).trace = s.trace ∧ (loadTx b s).hostOps = s.hostOps ∧
    (loadTx b s).hostActs = s.hostActs ∧ (loadTx b s).readData = s.readData ∧ (loadTx b s).dev = s.dev ∧
    (loadTx b s).devIx = s.devIx ∧ (loadTx b s).freeIx = s.freeIx :=
  ⟨rfl, rfl, rfl, rfl, rfl, rfl, rfl, rfl, rfl, rfl, rfl, rfl, rfl, rfl, rfl, rfl, rfl, rfl, rfl, rfl, rfl, rfl, rfl, rfl, rfl, rfl, rfl, rfl, rfl, rfl, rfl, rfl, rfl, rfl, rfl, rfl⟩

@[simp] theorem loadRx_fields (B : List Byte) (s : State) :
    (loadRx B s).cfg = s.cfg ∧ (loadRx B s).devAddr = s.devAddr ∧ (loadRx B s).busy = s.busy ∧ (loadRx B s).opreg = s.opreg ∧
    (loadRx B s).ustep = s.ustep ∧ (loadRx B s).phase = s.phase ∧ (loadRx B s).pollcnt = s.pollcnt ∧
    (loadRx B s).abortPend = s.abortPend ∧ (loadRx B s).done = s.done ∧ (loadRx B s).result = s.result ∧
    (loadRx B s).errseen = s.errseen ∧ (loadRx B s).tfcode = s.tfcode ∧ (loadRx B s).cmdval = s.cmdval ∧
    (loadRx B s).cmdvalV = s.cmdvalV ∧ (loadRx B s).rdy = s.rdy ∧ (loadRx B s).rdyV = s.rdyV ∧ (loadRx B s).errf = s.errf ∧
    (loadRx B s).errc = s.errc ∧ (loadRx B s).errV = s.errV ∧ (loadRx B s).chkCalc = s.chkCalc ∧
    (loadRx B s).chkOk = s.chkOk ∧ (loadRx B s).chkV = s.chkV ∧ (loadRx B s).pkt = s.pkt ∧ (loadRx B s).pktV = s.pktV ∧
    (loadRx B s).par = s.par ∧ (loadRx B s).parV = s.parV ∧ (loadRx B s).rxbuf = B ∧ (loadRx B s).txbuf = s.txbuf ∧
    (loadRx B s).txV = s.txV ∧ (loadRx B s).trace = s.trace ∧ (loadRx B s).hostOps = s.hostOps ∧
    (loadRx B s).hostActs = s.hostActs ∧ (loadRx B s).readData = s.readData ∧ (loadRx B s).dev = s.dev ∧
    (loadRx B s).devIx = s.devIx ∧ (loadRx B s).freeIx = s.freeIx :=
  ⟨rfl, rfl, rfl, rfl, rfl, rfl, rfl, rfl, rfl, rfl, rfl, rfl, rfl, rfl, rfl, rfl, rfl, rfl, rfl, rfl, rfl, rfl, rfl, rfl, rfl, rfl, rfl, rfl, rfl, rfl, rfl, rfl, rfl, rfl, rfl, rfl⟩

@[simp] theorem gotoSub_fields (n : Nat) (sub : Sub) (s : State) :
    (gotoSub n sub s).cfg = s.cfg ∧ (gotoSub n sub s).devAddr = s.devAddr ∧ (gotoSub n sub s).busy = s.busy ∧
    (gotoSub n sub s).opreg = s.opreg ∧ (gotoSub n sub s).ustep = ⟨n, sub⟩ ∧ (gotoSub n sub s).phase = s.phase ∧
    (gotoSub n sub s).pollcnt = s.pollcnt ∧ (gotoSub n sub s).abortPend = s.abortPend ∧ (gotoSub n sub s).done = s.done ∧
    (gotoSub n sub s).result = s.result ∧ (gotoSub n sub s).errseen = s.errseen ∧ (gotoSub n sub s).tfcode = s.tfcode ∧
    (gotoSub n sub s).cmdval = s.cmdval ∧ (gotoSub n sub s).cmdvalV = s.cmdvalV ∧ (gotoSub n sub s).rdy = s.rdy ∧
    (gotoSub n sub s).rdyV = s.rdyV ∧ (gotoSub n sub s).errf = s.errf ∧ (gotoSub n sub s).errc = s.errc ∧
    (gotoSub n sub s).errV = s.errV ∧ (gotoSub n sub s).chkCalc = s.chkCalc ∧ (gotoSub n sub s).chkOk = s.chkOk ∧
    (gotoSub n sub s).chkV = s.chkV ∧ (gotoSub n sub s).pkt = s.pkt ∧ (gotoSub n sub s).pktV = s.pktV ∧
    (gotoSub n sub s).par = s.par ∧ (gotoSub n sub s).parV = s.parV ∧ (gotoSub n sub s).rxbuf = s.rxbuf ∧
    (gotoSub n sub s).txbuf = s.txbuf ∧ (gotoSub n sub s).txV = s.txV ∧ (gotoSub n sub s).trace = s.trace ∧
    (gotoSub n sub s).hostOps = s.hostOps ∧ (gotoSub n sub s).hostActs = s.hostActs ∧
    (gotoSub n sub s).readData = s.readData ∧ (gotoSub n sub s).dev = s.dev ∧ (gotoSub n sub s).devIx = s.devIx ∧
    (gotoSub n sub s).freeIx = s.freeIx :=
  ⟨rfl, rfl, rfl, rfl, rfl, rfl, rfl, rfl, rfl, rfl, rfl, rfl, rfl, rfl, rfl, rfl, rfl, rfl, rfl, rfl, rfl, rfl, rfl, rfl, rfl, rfl, rfl, rfl, rfl, rfl, rfl, rfl, rfl, rfl, rfl, rfl⟩

@[simp] theorem setHostOps_fields (ws : List Word) (s : State) :
    (setHostOps ws s).cfg = s.cfg ∧ (setHostOps ws s).devAddr = s.devAddr ∧ (setHostOps ws s).busy = s.busy ∧
    (setHostOps ws s).opreg = s.opreg ∧ (setHostOps ws s).ustep = s.ustep ∧ (setHostOps ws s).phase = s.phase ∧
    (setHostOps ws s).pollcnt = s.pollcnt ∧ (setHostOps ws s).abortPend = s.abortPend ∧ (setHostOps ws s).done = s.done ∧
    (setHostOps ws s).result = s.result ∧ (setHostOps ws s).errseen = s.errseen ∧ (setHostOps ws s).tfcode = s.tfcode ∧
    (setHostOps ws s).cmdval = s.cmdval ∧ (setHostOps ws s).cmdvalV = s.cmdvalV ∧ (setHostOps ws s).rdy = s.rdy ∧
    (setHostOps ws s).rdyV = s.rdyV ∧ (setHostOps ws s).errf = s.errf ∧ (setHostOps ws s).errc = s.errc ∧
    (setHostOps ws s).errV = s.errV ∧ (setHostOps ws s).chkCalc = s.chkCalc ∧ (setHostOps ws s).chkOk = s.chkOk ∧
    (setHostOps ws s).chkV = s.chkV ∧ (setHostOps ws s).pkt = s.pkt ∧ (setHostOps ws s).pktV = s.pktV ∧
    (setHostOps ws s).par = s.par ∧ (setHostOps ws s).parV = s.parV ∧ (setHostOps ws s).rxbuf = s.rxbuf ∧
    (setHostOps ws s).txbuf = s.txbuf ∧ (setHostOps ws s).txV = s.txV ∧ (setHostOps ws s).trace = s.trace ∧
    (setHostOps ws s).hostOps = ws ∧ (setHostOps ws s).hostActs = s.hostActs ∧ (setHostOps ws s).readData = s.readData ∧
    (setHostOps ws s).dev = s.dev ∧ (setHostOps ws s).devIx = s.devIx ∧ (setHostOps ws s).freeIx = s.freeIx :=
  ⟨rfl, rfl, rfl, rfl, rfl, rfl, rfl, rfl, rfl, rfl, rfl, rfl, rfl, rfl, rfl, rfl, rfl, rfl, rfl, rfl, rfl, rfl, rfl, rfl, rfl, rfl, rfl, rfl, rfl, rfl, rfl, rfl, rfl, rfl, rfl, rfl⟩

@[simp] theorem setHostActs_fields (acts : List HostAct) (s : State) :
    (setHostActs acts s).cfg = s.cfg ∧ (setHostActs acts s).devAddr = s.devAddr ∧ (setHostActs acts s).busy = s.busy ∧
    (setHostActs acts s).opreg = s.opreg ∧ (setHostActs acts s).ustep = s.ustep ∧ (setHostActs acts s).phase = s.phase ∧
    (setHostActs acts s).pollcnt = s.pollcnt ∧ (setHostActs acts s).abortPend = s.abortPend ∧
    (setHostActs acts s).done = s.done ∧ (setHostActs acts s).result = s.result ∧ (setHostActs acts s).errseen = s.errseen ∧
    (setHostActs acts s).tfcode = s.tfcode ∧ (setHostActs acts s).cmdval = s.cmdval ∧
    (setHostActs acts s).cmdvalV = s.cmdvalV ∧ (setHostActs acts s).rdy = s.rdy ∧ (setHostActs acts s).rdyV = s.rdyV ∧
    (setHostActs acts s).errf = s.errf ∧ (setHostActs acts s).errc = s.errc ∧ (setHostActs acts s).errV = s.errV ∧
    (setHostActs acts s).chkCalc = s.chkCalc ∧ (setHostActs acts s).chkOk = s.chkOk ∧ (setHostActs acts s).chkV = s.chkV ∧
    (setHostActs acts s).pkt = s.pkt ∧ (setHostActs acts s).pktV = s.pktV ∧ (setHostActs acts s).par = s.par ∧
    (setHostActs acts s).parV = s.parV ∧ (setHostActs acts s).rxbuf = s.rxbuf ∧ (setHostActs acts s).txbuf = s.txbuf ∧
    (setHostActs acts s).txV = s.txV ∧ (setHostActs acts s).trace = s.trace ∧ (setHostActs acts s).hostOps = s.hostOps ∧
    (setHostActs acts s).hostActs = acts ∧ (setHostActs acts s).readData = s.readData ∧ (setHostActs acts s).dev = s.dev ∧
    (setHostActs acts s).devIx = s.devIx ∧ (setHostActs acts s).freeIx = s.freeIx :=
  ⟨rfl, rfl, rfl, rfl, rfl, rfl, rfl, rfl, rfl, rfl, rfl, rfl, rfl, rfl, rfl, rfl, rfl, rfl, rfl, rfl, rfl, rfl, rfl, rfl, rfl, rfl, rfl, rfl, rfl, rfl, rfl, rfl, rfl, rfl, rfl, rfl⟩

@[simp] theorem setAbort_fields (s : State) :
    (setAbort s).cfg = s.cfg ∧ (setAbort s).devAddr = s.devAddr ∧ (setAbort s).busy = s.busy ∧ (setAbort s).opreg = s.opreg ∧
    (setAbort s).ustep = s.ustep ∧ (setAbort s).phase = s.phase ∧ (setAbort s).pollcnt = s.pollcnt ∧
    (setAbort s).abortPend = true ∧ (setAbort s).done = s.done ∧ (setAbort s).result = s.result ∧
    (setAbort s).errseen = s.errseen ∧ (setAbort s).tfcode = s.tfcode ∧ (setAbort s).cmdval = s.cmdval ∧
    (setAbort s).cmdvalV = s.cmdvalV ∧ (setAbort s).rdy = s.rdy ∧ (setAbort s).rdyV = s.rdyV ∧ (setAbort s).errf = s.errf ∧
    (setAbort s).errc = s.errc ∧ (setAbort s).errV = s.errV ∧ (setAbort s).chkCalc = s.chkCalc ∧
    (setAbort s).chkOk = s.chkOk ∧ (setAbort s).chkV = s.chkV ∧ (setAbort s).pkt = s.pkt ∧ (setAbort s).pktV = s.pktV ∧
    (setAbort s).par = s.par ∧ (setAbort s).parV = s.parV ∧ (setAbort s).rxbuf = s.rxbuf ∧ (setAbort s).txbuf = s.txbuf ∧
    (setAbort s).txV = s.txV ∧ (setAbort s).trace = s.trace ∧ (setAbort s).hostOps = s.hostOps ∧
    (setAbort s).hostActs = s.hostActs ∧ (setAbort s).readData = s.readData ∧ (setAbort s).dev = s.dev ∧
    (setAbort s).devIx = s.devIx ∧ (setAbort s).freeIx = s.freeIx :=
  ⟨rfl, rfl, rfl, rfl, rfl, rfl, rfl, rfl, rfl, rfl, rfl, rfl, rfl, rfl, rfl, rfl, rfl, rfl, rfl, rfl, rfl, rfl, rfl, rfl, rfl, rfl, rfl, rfl, rfl, rfl, rfl, rfl, rfl, rfl, rfl, rfl⟩

@[simp] theorem answerRead_fields (v : Word) (used : Nat) (s : State) :
    (answerRead v used s).cfg = s.cfg ∧ (answerRead v used s).devAddr = s.devAddr ∧ (answerRead v used s).busy = s.busy ∧
    (answerRead v used s).opreg = s.opreg ∧ (answerRead v used s).ustep = s.ustep ∧ (answerRead v used s).phase = s.phase ∧
    (answerRead v used s).pollcnt = s.pollcnt ∧ (answerRead v used s).abortPend = s.abortPend ∧
    (answerRead v used s).done = s.done ∧ (answerRead v used s).result = s.result ∧
    (answerRead v used s).errseen = s.errseen ∧ (answerRead v used s).tfcode = s.tfcode ∧
    (answerRead v used s).cmdval = s.cmdval ∧ (answerRead v used s).cmdvalV = s.cmdvalV ∧ (answerRead v used s).rdy = s.rdy ∧
    (answerRead v used s).rdyV = s.rdyV ∧ (answerRead v used s).errf = s.errf ∧ (answerRead v used s).errc = s.errc ∧
    (answerRead v used s).errV = s.errV ∧ (answerRead v used s).chkCalc = s.chkCalc ∧ (answerRead v used s).chkOk = s.chkOk ∧
    (answerRead v used s).chkV = s.chkV ∧ (answerRead v used s).pkt = s.pkt ∧ (answerRead v used s).pktV = s.pktV ∧
    (answerRead v used s).par = s.par ∧ (answerRead v used s).parV = s.parV ∧ (answerRead v used s).rxbuf = s.rxbuf ∧
    (answerRead v used s).txbuf = s.txbuf ∧ (answerRead v used s).txV = s.txV ∧ (answerRead v used s).trace = s.trace ∧
    (answerRead v used s).hostOps = s.hostOps ∧ (answerRead v used s).hostActs = s.hostActs ∧
    (answerRead v used s).readData = v ∧ (answerRead v used s).dev = s.dev ∧ (answerRead v used s).devIx = s.devIx ∧
    (answerRead v used s).freeIx = s.freeIx + used :=
  ⟨rfl, rfl, rfl, rfl, rfl, rfl, rfl, rfl, rfl, rfl, rfl, rfl, rfl, rfl, rfl, rfl, rfl, rfl, rfl, rfl, rfl, rfl, rfl, rfl, rfl, rfl, rfl, rfl, rfl, rfl, rfl, rfl, rfl, rfl, rfl, rfl⟩

/-- Using an answer of the device changes no register: only what is left of the script, or the index behind it. -/
@[simp] theorem takeAnswer_fields (s : State) :
    (takeAnswer s).cfg = s.cfg ∧ (takeAnswer s).devAddr = s.devAddr ∧ (takeAnswer s).busy = s.busy ∧
    (takeAnswer s).opreg = s.opreg ∧ (takeAnswer s).ustep = s.ustep ∧ (takeAnswer s).phase = s.phase ∧
    (takeAnswer s).pollcnt = s.pollcnt ∧ (takeAnswer s).abortPend = s.abortPend ∧ (takeAnswer s).done = s.done ∧
    (takeAnswer s).result = s.result ∧ (takeAnswer s).errseen = s.errseen ∧ (takeAnswer s).tfcode = s.tfcode ∧
    (takeAnswer s).cmdval = s.cmdval ∧ (takeAnswer s).cmdvalV = s.cmdvalV ∧ (takeAnswer s).rdy = s.rdy ∧
    (takeAnswer s).rdyV = s.rdyV ∧ (takeAnswer s).errf = s.errf ∧ (takeAnswer s).errc = s.errc ∧
    (takeAnswer s).errV = s.errV ∧ (takeAnswer s).chkCalc = s.chkCalc ∧ (takeAnswer s).chkOk = s.chkOk ∧
    (takeAnswer s).chkV = s.chkV ∧ (takeAnswer s).pkt = s.pkt ∧ (takeAnswer s).pktV = s.pktV ∧ (takeAnswer s).par = s.par ∧
    (takeAnswer s).parV = s.parV ∧ (takeAnswer s).rxbuf = s.rxbuf ∧ (takeAnswer s).txbuf = s.txbuf ∧
    (takeAnswer s).txV = s.txV ∧ (takeAnswer s).trace = s.trace ∧ (takeAnswer s).hostOps = s.hostOps ∧
    (takeAnswer s).hostActs = s.hostActs ∧ (takeAnswer s).readData = s.readData ∧ (takeAnswer s).freeIx = s.freeIx := by
  unfold takeAnswer
  split <;> exact ⟨rfl, rfl, rfl, rfl, rfl, rfl, rfl, rfl, rfl, rfl, rfl, rfl, rfl, rfl, rfl, rfl, rfl, rfl, rfl, rfl, rfl, rfl, rfl, rfl, rfl, rfl, rfl, rfl, rfl, rfl, rfl, rfl, rfl, rfl⟩

end Sys2Proof.Machine
end

