-- ==== Sys2Proof/Laws/Ops.lean ====
section
/-! SUPPORT. For each shared operation, everything it can do: the lemmas a proof cites instead of unfolding it. -/

namespace Sys2Proof.Machine

/-- `check_abort` ends the operation or does nothing (R232). -/
theorem checkAbort_cases (onAbort rest : State → State) (s : State) :
    (s.abortPend = true ∧ checkAbort onAbort rest s = raise .operationTimedOut (onAbort s)) ∨
    (s.abortPend = false ∧ checkAbort onAbort rest s = rest s) := by
  unfold checkAbort
  cases h : s.abortPend <;> simp

/-- The three ends of `send(k)` (R133, R230, R232). -/
theorem send_cases (k : Command) (onAbort onFail onOk : State → State) (s : State) :
    (s.abortPend = true ∧ send k onAbort onFail onOk s = raise .operationTimedOut (onAbort s)) ∨
    (∃ c, s.abortPend = false ∧ (nextAnswer s).failure = some c ∧
      send k onAbort onFail onOk s = raiseTransport c (onFail (emit (.failed .w s.devAddr c) (takeAnswer s)))) ∨
    (s.abortPend = false ∧ (nextAnswer s).failure = none ∧
      send k onAbort onFail onOk s =
        onOk (emit (.regWrite s.devAddr s.cfg.cmdReg (commandByte s.cfg k)) (takeAnswer s))) := by
  unfold send checkAbort regWrite
  cases ha : s.abortPend <;> cases hf : (nextAnswer s).failure <;> simp [hf]

/-- The three ends of `readreg()` (R135, R230, R232). -/
theorem readReg_cases (onAbort onFail : State → State) (onOk : Byte → State → State) (s : State) :
    (s.abortPend = true ∧ readReg onAbort onFail onOk s = raise .operationTimedOut (onAbort s)) ∨
    (∃ c, s.abortPend = false ∧ (nextAnswer s).failure = some c ∧
      readReg onAbort onFail onOk s =
        raiseTransport c (onFail (dropCmdval (emit (.failed .r s.devAddr c) (takeAnswer s))))) ∨
    (s.abortPend = false ∧ (nextAnswer s).failure = none ∧
      readReg onAbort onFail onOk s =
        onOk (nextAnswer s).byte
          (loadCmdval (nextAnswer s).byte
            (emit (.regRead s.devAddr s.cfg.cmdReg (nextAnswer s).byte) (takeAnswer s)))) := by
  unfold readReg checkAbort regRead
  cases ha : s.abortPend <;> cases hf : (nextAnswer s).failure <;> simp [hf]

/-- The four ends of the block read of FETCH (R156, R157, R238). -/
theorem blockItem_cases (n : Byte) (s : State) :
    (s.abortPend = true ∧ blockItem n s = raise .operationTimedOut (clearRx s)) ∨
    (∃ c, s.abortPend = false ∧ (nextAnswer s).failure = some c ∧
      blockItem n s = raiseTransport c (clearRx (emit (.failed .br s.devAddr c) (takeAnswer s)))) ∨
    (s.abortPend = false ∧ (nextAnswer s).failure = none ∧ (answeredBlock (nextAnswer s)).length ≠ n.toNat ∧
      blockItem n s =
        raise .protocolError
          (clearRx (emit (.blockRead s.devAddr n (answeredBlock (nextAnswer s))) (takeAnswer s)))) ∨
    (s.abortPend = false ∧ (nextAnswer s).failure = none ∧ (answeredBlock (nextAnswer s)).length = n.toNat ∧
      blockItem n s =
        complete
          (loadRx (answeredBlock (nextAnswer s))
            (emit (.blockRead s.devAddr n (answeredBlock (nextAnswer s))) (takeAnswer s)))) := by
  unfold blockItem checkAbort blockRead
  cases ha : s.abortPend <;> cases hf : (nextAnswer s).failure <;> simp [hf]
  by_cases hl : (answeredBlock (nextAnswer s)).length = n.toNat <;> simp [hl]

/-- The three ends of an attempt whose byte has come (R138, R140): ready, exhausted, again. -/
theorem attemptResult_cases (item : Nat) (cleanup onReady : State → State) (v : Byte) (s : State) :
    (readyBit v = true ∧
      attemptResult item cleanup onReady v s =
        onReady (countAttempt (loadRdy v s))) ∨
    (readyBit v = false ∧ pollExhausted s.cfg.maxPoll (bumpCount s.pollcnt) = true ∧
      attemptResult item cleanup onReady v s =
        raise .operationTimedOut (cleanup (countAttempt (loadRdy v s)))) ∨
    (readyBit v = false ∧ pollExhausted s.cfg.maxPoll (bumpCount s.pollcnt) = false ∧
      attemptResult item cleanup onReady v s =
        gotoSub item .write (countAttempt (loadRdy v s))) := by
  unfold attemptResult
  cases hr : readyBit v <;> cases hx : pollExhausted s.cfg.maxPoll (bumpCount s.pollcnt) <;> simp

/-- A block answer is at most 255 bytes (R65). -/
theorem answeredBlock_length_le (a : DevAnswer) : (answeredBlock a).length ≤ Config.rxbufCap := by
  simp [answeredBlock]

/-- An answer no longer than 255 bytes is returned whole (R65). -/
theorem answeredBlock_eq (a : DevAnswer) (h : a.block.length ≤ Config.rxbufCap) : answeredBlock a = a.block :=
  List.take_of_length_le h

/-- The count of a poll that has budget left goes up by one (R45, R140). -/
theorem bumpCount_toNat (c : Half) (h : c.toNat < 65535) : (bumpCount c).toNat = c.toNat + 1 := by
  have hne : c ≠ 65535#16 := by rintro rfl; simp at h
  simp [bumpCount, hne, BitVec.toNat_add]
  omega

/-- A poll is exhausted exactly when it is bounded and its count has reached the bound (R140). -/
theorem pollExhausted_iff (m c : Half) : pollExhausted m c = true ↔ m ≠ 0#16 ∧ c = m := by
  simp [pollExhausted]

/-- A command index is a command's exactly in its legal range (R92, R100). -/
theorem commandOf_eq_none (a : Byte) : commandOf a = none ↔ 8 < a.toNat := by
  unfold commandOf
  split <;> simp_all
  omega

/-- The index of the command a legal index names is that index (R100). -/
theorem commandOf_index (a : Byte) (k : Command) (h : commandOf a = some k) : (commandIndex k).val = a.toNat := by
  unfold commandOf at h
  split at h <;> simp_all <;> subst h <;> rfl

/-- A channel operand is legal exactly for 0 and 1 (R92, R115). -/
theorem channelOf_eq_none (a : Byte) : channelOf a = none ↔ 1 < a.toNat := by
  unfold channelOf
  split <;> simp_all
  omega

/-- A parameter index is legal exactly for 0 to 3 (R92, R174). -/
theorem parIndexOf_eq_none (a : Byte) : parIndexOf a = none ↔ 3 < a.toNat := by
  unfold parIndexOf
  split <;> simp_all
  omega

/-- Reading a parameter field back (R174). -/
theorem parGet_parSet (p : Params) (i j : ParIndex) (x : Half) :
    parGet (parSet p i x) j = if j = i then x else parGet p j := by
  cases i <;> cases j <;> rfl

end Sys2Proof.Machine
end

