-- ==== Sys2Proof/Laws/PerInstr.lean ====
section
/-! SUPPORT. The family of statements made per instruction: the decoder reads an instruction back from its own word, and the word
is one the opcode map's row of that instruction selects. -/

namespace Sys2Proof.Laws.EncodeRoundTrip

/-- Decoding the word of `i` gives `i`, and the word is `match` under `mask` (R94). -/
def Statement (i : Instr) : Prop :=
  decode (encode i) = .ok i ∧ encode i &&& maskBits i = matchBits i

theorem rdcreg : Statement .rdcreg := ⟨by rfl, by decide⟩
theorem isrdy : Statement .isrdy := ⟨by rfl, by decide⟩
theorem poll : Statement .poll := ⟨by rfl, by decide⟩
theorem geterr : Statement .geterr := ⟨by rfl, by decide⟩
theorem clrbuf : Statement .clrbuf := ⟨by rfl, by decide⟩
theorem decdata : Statement .decdata := ⟨by rfl, by decide⟩
theorem decpar : Statement .decpar := ⟨by rfl, by decide⟩
theorem encpar : Statement .encpar := ⟨by rfl, by decide⟩
theorem chksum : Statement .chksum := ⟨by rfl, by decide⟩
theorem errdec : Statement .errdec := ⟨by rfl, by decide⟩

/-- Masking a packed word masks its fields. -/
theorem pack_and (o a o' a' : Byte) (b b' : Half) :
    pack o a b &&& pack o' a' b' = pack (o &&& o') (a &&& a') (b &&& b') := by
  apply BitVec.eq_of_getLsbD_eq
  intro k hk
  rw [BitVec.getLsbD_and, getLsbD_pack, getLsbD_pack, getLsbD_pack]
  split
  · simp
  · split <;> simp

theorem maskA : (0xFF00FFFF#32 : Word) = pack 0xFF#8 0#8 0xFFFF#16 := by decide
theorem maskALowB : (0xFF00FF00#32 : Word) = pack 0xFF#8 0#8 0xFF00#16 := by decide
theorem maskAB : (0xFF000000#32 : Word) = pack 0xFF#8 0#8 0#16 := by decide

theorem sendcmd (a : Byte) : Statement (.sendcmd a) := by
  refine ⟨by simp [encode, decode, takesA], ?_⟩
  simp only [encode, maskBits, matchBits, maskA, pack_and, BitVec.and_zero]
  decide

theorem rstch (a : Byte) : Statement (.rstch a) := by
  refine ⟨by simp [encode, decode, takesA], ?_⟩
  simp only [encode, maskBits, matchBits, maskA, pack_and, BitVec.and_zero]
  decide

theorem pushb (a : Byte) : Statement (.pushb a) := by
  refine ⟨by simp [encode, decode, takesA], ?_⟩
  simp only [encode, maskBits, matchBits, maskA, pack_and, BitVec.and_zero]
  decide

theorem errmap (a : Byte) : Statement (.errmap a) := by
  refine ⟨by simp [encode, decode, takesA], ?_⟩
  simp only [encode, maskBits, matchBits, maskA, pack_and, BitVec.and_zero]
  decide

theorem setpar (a : Byte) (b : Half) : Statement (.setpar a b) := by
  refine ⟨by simp [encode, decode], ?_⟩
  simp only [encode, maskBits, matchBits, maskAB, pack_and, BitVec.and_zero]
  decide

theorem fetch (a n : Byte) : Statement (.fetch a n) := by
  refine ⟨by simp [encode, decode, takesLowB], ?_⟩
  simp only [encode, maskBits, matchBits, maskALowB, pack_and, BitVec.and_zero, and_highB_append]
  decide

end Sys2Proof.Laws.EncodeRoundTrip
end

