-- ==== Sys2Proof/Laws/Sequencer.lean ====
section
/-! SUPPORT. Everything a step of a sequencer operation can do, said once: an invariant or a frame follows by going through
these ends, without unfolding a meaning. -/

namespace Sys2Proof.Machine

/-- What an operation's rule invalidates when it ends with an error (R156, R162). -/
def cleanupOf (i : Instr) (s : State) : State :=
  match i with
  | .geterr => invalidateErr s
  | .fetch _ _ => clearRx s
  | _ => s

/-- The state a transaction starts from: the first write of a poll clears the count (R141). -/
def openedAt (i : Instr) (s : State) : State :=
  if isPollItem i s.ustep.item ∧ s.ustep.sub = .opening then clearCount s else s

/-- The state an abort finds: only POLL, which no `Wait` precedes, has begun its poll there (R142; log 15). -/
def abortedAt (i : Instr) (s : State) : State := if i = .poll then openedAt i s else s

/-- What a failed transaction invalidates (R135, R138, and `cleanupOf`). -/
def failedAt (i : Instr) (u : Ustep) (k : BusKind) (s : State) : State :=
  let dropped := if k = .r then dropCmdval s else s
  cleanupOf i (if inAttempt i u then invalidateRdy dropped else dropped)

/-- Where a command write that went through leads (R131, R165). -/
def writtenAt (i : Instr) (u : Ustep) (s : State) : State :=
  if isPollItem i u.item then gotoSub u.item .read s
  else
    match i with
    | .rstch _ | .fetch _ _ => gotoItem (u.item + 1) (setPhase (phaseAt i (u.item + 1)) s)
    | _ => gotoItem (u.item + 1) s

/-- Where a byte read outside a poll leads (R137, R139, R162). -/
def byteReadAt (i : Instr) (v : Byte) (s : State) : State :=
  match i with
  | .isrdy => complete (loadRdy v s)
  | .geterr => complete (loadErr (errField v) (errCodeOf v) s)
  | _ => complete s

/-- Where a poll that saw the ready bit leads (R142, R150, R156, R165). -/
def readyAt (i : Instr) (u : Ustep) (s : State) : State :=
  match i with
  | .rstch _ => complete (setPhase .readyData s)
  | .fetch _ _ => gotoItem (u.item + 1) (setPhase (phaseAt i (u.item + 1)) s)
  | _ => complete s

/-- Clearing the count leaves the next answer of the device what it was. -/
@[simp] theorem nextAnswer_clearCount (s : State) : nextAnswer (clearCount s) = nextAnswer s := rfl

/-- The eleven ends of a step of a sequencer operation. -/
inductive SequencerEnd (i : Instr) (s t : State) : Prop
  | illegal (wf : i.wellFormed = false) (eq : t = raise .illegalOperation s)
  | aborted (wf : i.wellFormed = true) (item : s.ustep.item < itemCount i) (abort : s.abortPend = true)
      (eq : t = raise .operationTimedOut (cleanupOf i (abortedAt i s)))
  | failed (wf : i.wellFormed = true) (item : s.ustep.item < itemCount i) (abort : s.abortPend = false)
      (k : BusKind) (c : Byte) (kind : busKindAt i s.ustep = some k) (failure : (nextAnswer s).failure = some c)
      (eq : t = raiseTransport c (failedAt i s.ustep k (emit (.failed k s.devAddr c) (takeAnswer (openedAt i s)))))
  | waited (wf : i.wellFormed = true) (abort : s.abortPend = false) (op : ∃ a, i = .sendcmd a) (item : s.ustep.item = 1)
      (eq : t = complete s)
  | written (wf : i.wellFormed = true) (item : s.ustep.item < itemCount i) (abort : s.abortPend = false)
      (kind : busKindAt i s.ustep = some .w) (failure : (nextAnswer s).failure = none) (k : Command)
      (eq : t = writtenAt i s.ustep
        (emit (.regWrite s.devAddr s.cfg.cmdReg (commandByte s.cfg k)) (takeAnswer (openedAt i s))))
  | byteRead (wf : i.wellFormed = true) (item : s.ustep.item = 1) (abort : s.abortPend = false)
      (op : i = .rdcreg ∨ i = .isrdy ∨ i = .geterr) (failure : (nextAnswer s).failure = none)
      (eq : t = byteReadAt i (nextAnswer s).byte (loadCmdval (nextAnswer s).byte
        (emit (.regRead s.devAddr s.cfg.cmdReg (nextAnswer s).byte) (takeAnswer s))))
  | ready (wf : i.wellFormed = true) (poll : isPollItem i s.ustep.item = true) (sub : s.ustep.sub = .read)
      (abort : s.abortPend = false) (failure : (nextAnswer s).failure = none) (bit : readyBit (nextAnswer s).byte = true)
      (eq : t = readyAt i s.ustep (countAttempt (loadRdy (nextAnswer s).byte (loadCmdval (nextAnswer s).byte
        (emit (.regRead s.devAddr s.cfg.cmdReg (nextAnswer s).byte) (takeAnswer s))))))
  | exhausted (wf : i.wellFormed = true) (poll : isPollItem i s.ustep.item = true) (sub : s.ustep.sub = .read)
      (abort : s.abortPend = false) (failure : (nextAnswer s).failure = none) (bit : readyBit (nextAnswer s).byte = false)
      (bound : pollExhausted s.cfg.maxPoll (bumpCount s.pollcnt) = true)
      (eq : t = raise .operationTimedOut (cleanupOf i (countAttempt (loadRdy (nextAnswer s).byte
        (loadCmdval (nextAnswer s).byte
          (emit (.regRead s.devAddr s.cfg.cmdReg (nextAnswer s).byte) (takeAnswer s)))))))
  | again (wf : i.wellFormed = true) (poll : isPollItem i s.ustep.item = true) (sub : s.ustep.sub = .read)
      (abort : s.abortPend = false) (failure : (nextAnswer s).failure = none) (bit : readyBit (nextAnswer s).byte = false)
      (bound : pollExhausted s.cfg.maxPoll (bumpCount s.pollcnt) = false)
      (eq : t = gotoSub s.ustep.item .write (countAttempt (loadRdy (nextAnswer s).byte (loadCmdval (nextAnswer s).byte
        (emit (.regRead s.devAddr s.cfg.cmdReg (nextAnswer s).byte) (takeAnswer s))))))
  | badBlock (wf : i.wellFormed = true) (n : Byte) (op : ∃ a, i = .fetch a n) (item : s.ustep.item = 4)
      (abort : s.abortPend = false) (failure : (nextAnswer s).failure = none)
      (length : (answeredBlock (nextAnswer s)).length ≠ n.toNat)
      (eq : t = raise .protocolError
        (clearRx (emit (.blockRead s.devAddr n (answeredBlock (nextAnswer s))) (takeAnswer s))))
  | goodBlock (wf : i.wellFormed = true) (n : Byte) (op : ∃ a, i = .fetch a n) (item : s.ustep.item = 4)
      (abort : s.abortPend = false) (failure : (nextAnswer s).failure = none)
      (length : (answeredBlock (nextAnswer s)).length = n.toNat)
      (eq : t = complete (loadRx (answeredBlock (nextAnswer s))
        (emit (.blockRead s.devAddr n (answeredBlock (nextAnswer s))) (takeAnswer s))))

/-- The ends of an item that is a command write. -/
theorem send_end (i : Instr) (s o : State) (k : Command) (wf : i.wellFormed = true) (item : s.ustep.item < itemCount i)
    (kind : busKindAt i s.ustep = some .w) (opened : openedAt i s = o)
    (aborted : s.abortPend = true → abortedAt i s = o) (onAbort onFail onOk : State → State)
    (ha : ∀ x, onAbort x = cleanupOf i x) (hf : ∀ x, onFail x = failedAt i s.ustep .w x)
    (ho : ∀ x, onOk x = writtenAt i s.ustep x) : SequencerEnd i s (send k onAbort onFail onOk o) := by
  have same : o.abortPend = s.abortPend ∧ nextAnswer o = nextAnswer s ∧ o.devAddr = s.devAddr ∧ o.cfg = s.cfg := by
    subst opened; unfold openedAt; split <;> simp
  obtain ⟨h1, h2, h3, h4⟩ := same
  rcases send_cases k onAbort onFail onOk o with ⟨h, e⟩ | ⟨c, h, hc, e⟩ | ⟨h, hc, e⟩
  · exact .aborted wf item (h1 ▸ h) (by rw [e, ha, aborted (h1 ▸ h)])
  · exact .failed wf item (h1 ▸ h) .w c kind (h2 ▸ hc) (by rw [e, hf, h3, opened])
  · exact .written wf item (h1 ▸ h) kind (h2 ▸ hc) k (by rw [e, ho, h3, h4, opened])

/-- The ends of an item that is a byte read, with what follows the byte left open. -/
theorem readReg_end (i : Instr) (s : State) (wf : i.wellFormed = true) (item : s.ustep.item < itemCount i)
    (kind : busKindAt i s.ustep = some .r) (opened : openedAt i s = s)
    (aborted : s.abortPend = true → abortedAt i s = s) (onAbort onFail : State → State)
    (onOk : Byte → State → State) (ha : ∀ x, onAbort x = cleanupOf i x)
    (hf : ∀ x, onFail (dropCmdval x) = failedAt i s.ustep .r x)
    (ho : s.abortPend = false → (nextAnswer s).failure = none →
      SequencerEnd i s (onOk (nextAnswer s).byte (loadCmdval (nextAnswer s).byte
        (emit (.regRead s.devAddr s.cfg.cmdReg (nextAnswer s).byte) (takeAnswer s))))) :
    SequencerEnd i s (readReg onAbort onFail onOk s) := by
  rcases readReg_cases onAbort onFail onOk s with ⟨h, e⟩ | ⟨c, h, hc, e⟩ | ⟨h, hc, e⟩
  · exact .aborted wf item h (by rw [e, ha, aborted h])
  · exact .failed wf item h .r c kind hc (by rw [e, hf, opened])
  · rw [e]; exact ho h hc

/-- The ends of a step of a poll item: POLL, which no wait precedes, or one whose wait was not aborted. -/
theorem pollStep_end (i : Instr) (s : State) (n : Nat) (cleanup onReady : State → State) (wf : i.wellFormed = true)
    (hn : s.ustep.item = n) (item : n < itemCount i) (poll : isPollItem i n = true)
    (wait : s.abortPend = true → i = .poll) (kind : busKindAt i s.ustep = some (attemptKind s.ustep.sub))
    (hc : ∀ x, cleanup x = cleanupOf i x) (hr : ∀ x, onReady x = readyAt i s.ustep x) :
    SequencerEnd i s (pollStep n cleanup onReady s) := by
  subst hn
  have hin : inAttempt i s.ustep = true := by simp [inAttempt, poll]
  have hf : ∀ x, cleanup (invalidateRdy x) = failedAt i s.ustep .w x := fun x => by simp [failedAt, hin, hc]
  have ho : ∀ x, gotoSub s.ustep.item .read x = writtenAt i s.ustep x := fun x => by simp [writtenAt, poll]
  cases hs : s.ustep.sub <;> simp only [pollStep, hs, attemptWrite, attemptRead]
  · exact send_end i s _ .rdCmdReg wf item (by simp [kind, hs, attemptKind]) (by simp [openedAt, poll, hs])
      (fun h => by cases wait h; simp [abortedAt, openedAt, poll, hs]) _ _ _ hc hf ho
  · exact send_end i s _ .rdCmdReg wf item (by simp [kind, hs, attemptKind]) (by simp [openedAt, hs])
      (fun h => by simp [abortedAt, openedAt, hs]) _ _ _ hc hf ho
  · refine readReg_end i s wf item (by simp [kind, hs, attemptKind]) (by simp [openedAt, hs])
      (fun h => by simp [abortedAt, openedAt, hs]) _ _ _ hc
      (fun x => by simp [failedAt, hin, hc]) (fun ha hf => ?_)
    rcases attemptResult_cases s.ustep.item cleanup onReady (nextAnswer s).byte (loadCmdval (nextAnswer s).byte
      (emit (.regRead s.devAddr s.cfg.cmdReg (nextAnswer s).byte) (takeAnswer s))) with
      ⟨hb, e⟩ | ⟨hb, hx, e⟩ | ⟨hb, hx, e⟩
    · exact .ready wf poll hs ha hf hb (by rw [e, hr])
    · exact .exhausted wf poll hs ha hf hb (by simpa using hx) (by rw [e, hc])
    · exact .again wf poll hs ha hf hb (by simpa using hx) e

/-- The ends of a step of a poll item that comes after a command write. -/
theorem pollAfterWait_end (i : Instr) (s : State) (n : Nat) (cleanup onReady : State → State) (wf : i.wellFormed = true)
    (hn : s.ustep.item = n) (item : n < itemCount i) (poll : isPollItem i n = true) (after : i ≠ .poll)
    (kind : busKindAt i s.ustep = some (attemptKind s.ustep.sub))
    (hc : ∀ x, cleanup x = cleanupOf i x) (hr : ∀ x, onReady x = readyAt i s.ustep x) :
    SequencerEnd i s (pollAfterWait n cleanup onReady s) := by
  rcases checkAbort_cases cleanup (pollStep n cleanup onReady) s with ⟨h, e⟩ | ⟨h, e⟩
  · exact .aborted wf (hn ▸ item) h (by simp [pollAfterWait, e, hc, abortedAt, after])
  · rw [pollAfterWait, e]
    exact pollStep_end i s n cleanup onReady wf hn item poll (by simp [h]) kind hc hr

/-- The ends of the block read of FETCH. -/
theorem blockItem_end (a n : Byte) (s : State) (wf : (Instr.fetch a n).wellFormed = true) (hi : s.ustep.item = 4) :
    SequencerEnd (.fetch a n) s (blockItem n s) := by
  have hop : openedAt (.fetch a n) s = s := by simp [openedAt, isPollItem, hi]
  have item : s.ustep.item < itemCount (.fetch a n) := by simp [hi, itemCount]
  rcases blockItem_cases n s with ⟨h, e⟩ | ⟨c, h, hc, e⟩ | ⟨h, hc, hl, e⟩ | ⟨h, hc, hl, e⟩
  · exact .aborted wf item h (by rw [e]; rfl)
  · refine .failed wf item h .br c (by simp [busKindAt, hi]) hc ?_
    rw [e, hop]; simp [failedAt, inAttempt, isPollItem, hi, cleanupOf]
  · exact .badBlock wf n ⟨a, rfl⟩ hi h hc hl e
  · exact .goodBlock wf n ⟨a, rfl⟩ hi h hc hl e

/-- The ends of items 0 and 1 of RDCREG, ISRDY and GETERR. -/
theorem rdcregStep_end (i : Instr) (s t : State) (op : i = .rdcreg ∨ i = .isrdy ∨ i = .geterr)
    (onAbort onFail : State → State) (onByte : Byte → State → State) (ha : ∀ x, onAbort x = cleanupOf i x)
    (hf : ∀ k x, onFail (if k = BusKind.r then dropCmdval x else x) = failedAt i s.ustep k x)
    (ho : ∀ v x, onByte v x = byteReadAt i v x)
    (h : rdcregStep onAbort onFail onByte s = .next t) : SequencerEnd i s t := by
  have wf : i.wellFormed = true := by rcases op with rfl | rfl | rfl <;> rfl
  have opened : openedAt i s = s := by rcases op with rfl | rfl | rfl <;> simp [openedAt, isPollItem]
  have aborted : s.abortPend = true → abortedAt i s = s := by rcases op with rfl | rfl | rfl <;> simp [abortedAt]
  have count : itemCount i = 2 := by rcases op with rfl | rfl | rfl <;> rfl
  unfold rdcregStep at h
  split at h
  next hi =>
    cases h
    refine send_end i s s .rdCmdReg wf (by simp [hi, count]) ?_ opened aborted _ _ _ ha (fun x => hf .w x) (fun x => ?_) <;>
      rcases op with rfl | rfl | rfl <;> simp [busKindAt, writtenAt, isPollItem, hi]
  next hi =>
    cases h
    refine readReg_end i s wf (by simp [hi, count]) ?_ opened aborted _ _ _ ha (fun x => hf .r x)
      (fun ha hf => .byteRead wf hi ha op hf (by rw [ho]))
    rcases op with rfl | rfl | rfl <;> simp [busKindAt, hi]
  next => cases h

/-- Every next state of a sequencer operation is one of its ends. -/
theorem sequencer_ends (i : Instr) (s t : State) (hb : isBusOp i = true) (h : exec i s = .next t) : SequencerEnd i s t := by
  cases i with
  | sendcmd a =>
    simp only [exec, execSendcmd] at h
    split at h
    next hk => cases h; exact .illegal (by simpa [Instr.wellFormed] using (commandOf_eq_none a).1 hk) rfl
    next k hk =>
      have wf : (Instr.sendcmd a).wellFormed = true := by
        by_contra hw; simp [Instr.wellFormed] at hw; simp [(commandOf_eq_none a).2 hw] at hk
      have opened : openedAt (.sendcmd a) s = s := by simp [openedAt, isPollItem]
      split at h
      next hi =>
        cases h
        exact send_end _ s s k wf (by simp [hi, itemCount]) (by simp [busKindAt, hi]) opened (by simp [abortedAt])
          _ _ _ (fun _ => rfl) (fun _ => by simp [failedAt, inAttempt, isPollItem, cleanupOf])
          (fun _ => by simp [writtenAt, isPollItem, hi])
      next hi =>
        cases h
        rcases checkAbort_cases id complete s with ⟨ha, e⟩ | ⟨ha, e⟩
        · exact .aborted wf (by simp [hi, itemCount]) ha (by rw [e]; rfl)
        · exact .waited wf ha ⟨a, rfl⟩ hi e
      next => cases h
  | rdcreg =>
    exact rdcregStep_end _ s t (by simp) _ _ _ (fun _ => rfl) (fun _ _ => by simp [failedAt, inAttempt, isPollItem, cleanupOf])
      (fun _ _ => rfl) h
  | isrdy =>
    exact rdcregStep_end _ s t (by simp) _ _ _ (fun _ => rfl) (fun _ _ => by simp [failedAt, inAttempt, cleanupOf])
      (fun _ _ => rfl) h
  | geterr =>
    exact rdcregStep_end _ s t (by simp) _ _ _ (fun _ => rfl) (fun _ _ => by simp [failedAt, inAttempt, isPollItem, cleanupOf])
      (fun _ _ => rfl) h
  | poll =>
    simp only [exec, execPoll] at h
    split at h
    next hi =>
      cases h
      exact pollStep_end _ s 0 _ _ rfl hi (by simp [itemCount]) (by simp [isPollItem]) (by simp) (by simp [busKindAt, hi])
        (fun _ => rfl) (fun _ => rfl)
    next => cases h
  | rstch a =>
    simp only [exec, execRstch] at h
    split at h
    next hk => cases h; exact .illegal (by simpa [Instr.wellFormed] using (channelOf_eq_none a).1 hk) rfl
    next k hk =>
      have wf : (Instr.rstch a).wellFormed = true := by
        by_contra hw; simp [Instr.wellFormed] at hw; simp [(channelOf_eq_none a).2 hw] at hk
      split at h
      next hi =>
        cases h
        exact send_end _ s s _ wf (by simp [hi, itemCount]) (by simp [busKindAt, hi]) (by simp [openedAt, isPollItem, hi])
          (by simp [abortedAt]) _ _ _ (fun _ => rfl) (fun _ => by simp [failedAt, inAttempt, isPollItem, cleanupOf, hi])
          (fun _ => by simp [writtenAt, isPollItem, hi, phaseAt])
      next hi =>
        cases h
        exact send_end _ s s _ wf (by simp [hi, itemCount]) (by simp [busKindAt, hi]) (by simp [openedAt, isPollItem, hi])
          (by simp [abortedAt]) _ _ _ (fun _ => rfl) (fun _ => by simp [failedAt, inAttempt, isPollItem, cleanupOf, hi])
          (fun _ => by simp [writtenAt, isPollItem, hi, phaseAt])
      next hi =>
        cases h
        exact pollAfterWait_end _ s 2 _ _ wf hi (by simp [itemCount]) (by simp [isPollItem]) (by simp) (by simp [busKindAt, hi])
          (fun _ => rfl) (fun _ => rfl)
      next => cases h
  | fetch a n =>
    simp only [exec, execFetch] at h
    split at h
    next hk => cases h; exact .illegal (by simpa [Instr.wellFormed] using (commandOf_eq_none a).1 hk) rfl
    next k hk =>
      have wf : (Instr.fetch a n).wellFormed = true := by
        by_contra hw; simp [Instr.wellFormed] at hw; simp [(commandOf_eq_none a).2 hw] at hk
      split at h
      next hi =>
        cases h
        exact send_end _ s s _ wf (by simp [hi, itemCount]) (by simp [busKindAt, hi]) (by simp [openedAt, isPollItem, hi])
          (by simp [abortedAt]) _ _ _ (fun _ => rfl) (fun _ => by simp [failedAt, inAttempt, isPollItem, cleanupOf, hi])
          (fun _ => by simp [writtenAt, isPollItem, hi, phaseAt])
      next hi =>
        cases h
        exact pollAfterWait_end _ s 1 _ _ wf hi (by simp [itemCount]) (by simp [isPollItem]) (by simp) (by simp [busKindAt, hi])
          (fun _ => rfl) (fun _ => by simp [readyAt, hi, phaseAt])
      next hi =>
        cases h
        exact send_end _ s s _ wf (by simp [hi, itemCount]) (by simp [busKindAt, hi]) (by simp [openedAt, isPollItem, hi])
          (by simp [abortedAt]) _ _ _ (fun _ => rfl) (fun _ => by simp [failedAt, inAttempt, isPollItem, cleanupOf, hi])
          (fun _ => by simp [writtenAt, isPollItem, hi, phaseAt])
      next hi =>
        cases h
        exact pollAfterWait_end _ s 3 _ _ wf hi (by simp [itemCount]) (by simp [isPollItem]) (by simp) (by simp [busKindAt, hi])
          (fun _ => rfl) (fun _ => by simp [readyAt, hi, phaseAt])
      next hi => cases h; exact blockItem_end a n s wf hi
      next => cases h
  | clrbuf | pushb | setpar | decdata | decpar | encpar | chksum | errdec | errmap => simp [isBusOp] at hb

end Sys2Proof.Machine
end

