-- ==== Sys2Proof/Tests/Slice0.lean ====
section
/-! SUPPORT. The model's own tests. Expected results are the spec's test vectors (95_test_vectors.md, named in each comment) under its
configuration TCFG; then, for every obligation that has hypotheses, a concrete state that meets them. -/

namespace Sys2Proof.Tests

open Sys2Proof Sys2Proof.Machine

/-! ### The test configuration -/

/-- TCFG of 95_test_vectors.md. -/
def tcfg : Cfg :=
  ⟨0x5A#8, #v[0xC1#8, 0xC2#8, 0xC3#8, 0xC4#8, 0xC5#8, 0xC6#8, 0xC7#8, 0xC8#8, 0xC9#8], 3#16, .sum8, 10, 10⟩

/-- The reset state under TCFG. -/
def idle : State := { State.reset with cfg := tcfg, devAddr := 0x12#7 }

/-- An operation in flight at a position of its template, with the device's next answers. -/
def flying (i : Instr) (item : Nat) (sub : Sub) (answers : List DevAnswer) : State :=
  { idle with busy := true, opreg := encode i, ustep := ⟨item, sub⟩, dev := answers }

/-- The idle block with bytes in the receive buffer. -/
def holding (B : List Byte) : State := { idle with rxbuf := B }

/-- `ok` for a write, and a byte for a register read. -/
def byteAnswer (v : Byte) : DevAnswer := ⟨none, v, []⟩

/-- A byte list for a block read. -/
def blockAnswer (B : List Byte) : DevAnswer := ⟨none, 0#8, B⟩

/-- `fail(c)`. -/
def failAnswer (c : Byte) : DevAnswer := ⟨some c, 0#8, []⟩

/-- A field of the next state, where there is one. -/
def after {α : Type} (o : Host.Outcome State Fault Refusal) (f : State → α) : Option α :=
  match o with
  | .next t => some (f t)
  | .fault _ => none
  | .refused _ => none

/-- B13 of vector S6. -/
def b13 : List Byte :=
  [0x45#8, 0x23#8, 0x01#8, 0x00#8, 0x80#8, 0x34#8, 0x12#8, 0x80#8, 0x0C#8, 0x00#8, 0x03#8, 0x10#8, 0xCE#8]

/-- `W(v)` of 95_test_vectors.md. -/
def wrote (v : Byte) : BusEvent := .regWrite 0x12#7 0x5A#8 v

/-- `R(v)` of 95_test_vectors.md. -/
def read (v : Byte) : BusEvent := .regRead 0x12#7 0x5A#8 v

/-! ### Well-formedness (R92 iii): an ill-formed term for each check, and the last legal operand -/

theorem test_illformed_sendcmd : (Instr.sendcmd 9#8).wellFormed = false ∧ (Instr.sendcmd 8#8).wellFormed = true := by decide
theorem test_illformed_rstch : (Instr.rstch 2#8).wellFormed = false ∧ (Instr.rstch 1#8).wellFormed = true := by decide
theorem test_illformed_fetch : (Instr.fetch 9#8 13#8).wellFormed = false ∧ (Instr.fetch 8#8 255#8).wellFormed = true := by decide
theorem test_illformed_setpar : (Instr.setpar 4#8 0#16).wellFormed = false ∧ (Instr.setpar 3#8 0#16).wellFormed = true := by decide

/-! ### Decoding: words written bit by bit from R90 and R94, `opc` then `a` then `b` -/

theorem test_word_sendcmd : decode 0b00000001_00001000_0000000000000000#32 = .ok (.sendcmd 8#8) := by rfl
theorem test_word_rdcreg : decode 0b00000010_00000000_0000000000000000#32 = .ok .rdcreg := by rfl
theorem test_word_isrdy : decode 0b00000011_00000000_0000000000000000#32 = .ok .isrdy := by rfl
theorem test_word_poll : decode 0b00000100_00000000_0000000000000000#32 = .ok .poll := by rfl
theorem test_word_rstch : decode 0b00000101_00000001_0000000000000000#32 = .ok (.rstch 1#8) := by rfl
theorem test_word_fetch : decode 0b00000110_00000100_0000000000001101#32 = .ok (.fetch 4#8 13#8) := by rfl
theorem test_word_geterr : decode 0b00000111_00000000_0000000000000000#32 = .ok .geterr := by rfl
theorem test_word_clrbuf : decode 0b00010000_00000000_0000000000000000#32 = .ok .clrbuf := by rfl
theorem test_word_pushb : decode 0b00010001_10101010_0000000000000000#32 = .ok (.pushb 0xAA#8) := by rfl
theorem test_word_setpar : decode 0b00010010_00000001_0000001111101000#32 = .ok (.setpar 1#8 1000#16) := by rfl
theorem test_word_decdata : decode 0b00010011_00000000_0000000000000000#32 = .ok .decdata := by rfl
theorem test_word_decpar : decode 0b00010100_00000000_0000000000000000#32 = .ok .decpar := by rfl
theorem test_word_encpar : decode 0b00010101_00000000_0000000000000000#32 = .ok .encpar := by rfl
theorem test_word_chksum : decode 0b00100000_00000000_0000000000000000#32 = .ok .chksum := by rfl
theorem test_word_errdec : decode 0b00100001_00000000_0000000000000000#32 = .ok .errdec := by rfl
theorem test_word_errmap : decode 0b00100010_00000101_0000000000000000#32 = .ok (.errmap 5#8) := by rfl

/-- 95_test_vectors.md 2.4. -/
theorem test_unknown_opcodes :
    [0x00000000#32, 0xFFFFFFFF#32, 0x08000000#32, 0x0F000000#32, 0x16000000#32, 0x23000000#32, 0x80000000#32].map decodeLegal =
      List.replicate 7 (.error .unknownOpcode) := by rfl

/-- S6, K2, X3: must-be-zero bits. -/
theorem test_must_be_zero :
    [0x0604010D#32, 0x10000001#32, 0x22020001#32, 0x02010000#32].map decodeLegal =
      List.replicate 4 (.error .mustBeZeroSet) := by rfl

/-- S6, K4: operands out of range. -/
theorem test_out_of_range :
    [0x0609000D#32, 0x12040000#32, 0x01090000#32, 0x05020000#32].map decodeLegal =
      List.replicate 4 (.error .operandOutOfRange) := by rfl

/-- The host's way in: 32 bits of a table row. -/
theorem test_table_word : decodeTableWord 32 0x06040008 = some (.fetch 4#8 8#8) := by rfl

/-- R120. -/
theorem test_text : assemblyText (.setpar 0#8 1000#16) = "SETPAR 0, 1000" ∧ assemblyText .poll = "POLL" := by decide

/-! ### The sequencer, one step each -/

/-- S1: SENDCMD with index 4 writes 0xC5, and does not complete before its wait is over. -/
theorem test_sendcmd_writes :
    after (exec (.sendcmd 4#8) (flying (.sendcmd 4#8) 0 .opening [byteAnswer 0#8])) (fun t => (t.trace, t.busy)) =
      some ([wrote 0xC5#8], true) := by decide

/-- S1, last row: a failed write. -/
theorem test_sendcmd_fails :
    after (exec (.sendcmd 2#8) (flying (.sendcmd 2#8) 0 .opening [failAnswer 0x2A#8]))
      (fun t => (t.trace, t.result, t.tfcode, t.busy)) =
      some ([.failed .w 0x12#7 0x2A#8], .transportError, 0x2A#8, false) := by decide

/-- S2: RDCREG loads CMDVAL and leaves RDY alone. -/
theorem test_rdcreg_reads :
    after (exec .rdcreg (flying .rdcreg 1 .opening [byteAnswer 0x38#8])) (fun t => (t.cmdval, t.cmdvalV, t.rdyV, t.busy)) =
      some (0x38#8, true, false, false) := by decide

/-- S2: a failed read clears CMDVAL_V. -/
theorem test_rdcreg_fails :
    after (exec .rdcreg { flying .rdcreg 1 .opening [failAnswer 1#8] with cmdvalV := true })
      (fun t => (t.cmdvalV, t.result, t.trace)) =
      some (false, .transportError, [.failed .r 0x12#7 1#8]) := by decide

/-- S3: 0x20 is ready. -/
theorem test_isrdy_ready :
    after (exec .isrdy (flying .isrdy 1 .opening [byteAnswer 0x20#8])) (fun t => (t.rdy, t.rdyV, t.result)) =
      some (true, true, .ok) := by decide

/-- S3: every bit but bit 5 set is not ready. -/
theorem test_isrdy_not_ready :
    after (exec .isrdy (flying .isrdy 1 .opening [byteAnswer 0xDF#8])) (fun t => (t.rdy, t.rdyV, t.result)) =
      some (false, true, .ok) := by decide

/-- V6: the ready bit, for all 256 byte values. -/
theorem test_ready_bit : ∀ v : Byte, readyBit v = decide (v.toNat / 32 % 2 = 1) := by decide

/-- S4: the third attempt of a poll bounded by 3 times out. -/
theorem test_poll_times_out :
    after (exec .poll { flying .poll 0 .read [byteAnswer 0x1F#8] with pollcnt := 2#16 })
      (fun t => (t.result, t.pollcnt, t.rdy, t.rdyV, t.errseen, t.busy)) =
      some (.operationTimedOut, 3#16, false, true, true, false) := by decide

/-- S4: the last attempt allowed may still succeed. -/
theorem test_poll_succeeds_at_the_bound :
    after (exec .poll { flying .poll 0 .read [byteAnswer 0x20#8] with pollcnt := 2#16 })
      (fun t => (t.result, t.pollcnt, t.rdy, t.errseen)) =
      some (.ok, 3#16, true, false) := by decide

/-- S5, C3: RSTCH B writes the channel's command straight after WR_CMD_REG. -/
theorem test_rstch_second_write :
    after (exec (.rstch 1#8) { flying (.rstch 1#8) 1 .opening [byteAnswer 0#8] with phase := .cmdPending })
      (fun t => (t.trace, t.phase)) =
      some ([wrote 0xC3#8], .opPending) := by decide

/-- S5: the poll of RSTCH ends it in READY_DATA. -/
theorem test_rstch_completes :
    after (exec (.rstch 0#8) { flying (.rstch 0#8) 2 .read [byteAnswer 0x20#8] with phase := .opPending })
      (fun t => (t.phase, t.result, t.pollcnt, t.busy)) =
      some (.readyData, .ok, 1#16, false) := by decide

/-- S6: the block read of FETCH RD_A, 13. -/
theorem test_fetch_block :
    after (exec (.fetch 4#8 13#8) { flying (.fetch 4#8 13#8) 4 .opening [blockAnswer b13] with phase := .readyData })
      (fun t => (t.trace, t.rxbuf, t.phase, t.result)) =
      some ([.blockRead 0x12#7 13#8 b13], b13, .readyData, .ok) := by decide

/-- S6: twelve bytes where thirteen were asked for. -/
theorem test_fetch_short_block :
    after (exec (.fetch 5#8 13#8) { flying (.fetch 5#8 13#8) 4 .opening [blockAnswer (b13.take 12)] with phase := .readyData })
      (fun t => (t.rxbuf, t.phase, t.result, t.errseen)) =
      some ([], .idle, .protocolError, true) := by decide

/-- S7: 0x38 has the ready bit and the error field 3. -/
theorem test_geterr_threshold :
    after (exec .geterr (flying .geterr 1 .opening [byteAnswer 0x38#8])) (fun t => (t.errf, t.errc, t.errV, t.rdyV)) =
      some (3#2, .threshold, true, false) := by decide

/-- S7: the low three bits are not the field. -/
theorem test_geterr_low_bits :
    after (exec .geterr (flying .geterr 1 .opening [byteAnswer 0x07#8])) (fun t => (t.errf, t.errc)) =
      some (0#2, .ok) := by decide

/-- R45, R232: an abort in the wait before the second poll of FETCH leaves the first poll's count. -/
theorem test_abort_in_wait_keeps_count :
    after (exec (.fetch 4#8 13#8) { flying (.fetch 4#8 13#8) 3 .opening [] with pollcnt := 2#16, abortPend := true })
      (fun t => (t.result, t.trace, t.pollcnt, t.phase)) =
      some (.operationTimedOut, [], 2#16, .idle) := by decide

/-- R142: a POLL aborted before its first write has made no attempt. -/
theorem test_abort_of_unbegun_poll :
    after (exec .poll { flying .poll 0 .opening [] with pollcnt := 2#16, abortPend := true }) (fun t => (t.result, t.pollcnt)) =
      some (.operationTimedOut, 0#16) := by decide

/-- P5: the abort is honoured before the transaction is issued. -/
theorem test_abort :
    after (exec .poll { flying .poll 0 .read [byteAnswer 0x20#8] with pollcnt := 2#16, abortPend := true })
      (fun t => (t.result, t.trace, t.pollcnt, t.abortPend, t.dev.length)) =
      some (.operationTimedOut, [], 2#16, false, 1) := by decide

/-! ### The codec -/

/-- K2: CLRBUF of thirteen bytes. -/
theorem test_clrbuf : after (exec .clrbuf (holding b13)) (fun t => (t.rxbuf, t.result)) = some ([], .ok) := by decide

set_option maxRecDepth 8000 in
/-- K2: the last free place of the buffer. -/
theorem test_pushb_last :
    after (exec (.pushb 0xAA#8) (holding (List.replicate 254 0#8))) (fun t => (t.rxbuf.length, t.rxbuf[254]?, t.result)) =
      some (255, some 0xAA#8, .ok) := by decide

set_option maxRecDepth 8000 in
/-- K2: a full buffer. -/
theorem test_pushb_full :
    after (exec (.pushb 0xBB#8) (holding (List.replicate 255 0#8))) (fun t => (t.rxbuf, t.result)) =
      some (List.replicate 255 0#8, .illegalOperation) := by decide

/-- K4: SETPAR SAMPLE, 65535. -/
theorem test_setpar :
    after (exec (.setpar 2#8 65535#16) { idle with parV := 0b0011#4 }) (fun t => (t.par.sample, t.par.thresh, t.parV)) =
      some (65535#16, 0#16, 0b0111#4) := by decide

/-- K4: index 4 is illegal and changes nothing. -/
theorem test_setpar_index_4 :
    after (exec (.setpar 4#8 7#16) idle) (fun t => (t.par, t.parV, t.result)) =
      some (idle.par, 0b0000#4, .illegalOperation) := by decide

/-- K1: distinct bytes, little-endian. -/
theorem test_decdata_distinct :
    after (exec .decdata (holding [1#8, 2#8, 3#8, 4#8, 5#8, 6#8, 7#8, 8#8, 9#8, 10#8, 11#8, 12#8, 13#8]))
      (fun t => (t.pkt, t.pktV)) =
      some (⟨67305985#32, 5#8, 1798#16, 2312#16, 2826#16, 12#8, 13#8⟩, true) := by decide

/-- K1: fourteen bytes. -/
theorem test_decdata_long :
    after (exec .decdata { holding (b13 ++ [0#8]) with pktV := true }) (fun t => (t.pktV, t.result, t.rxbuf.length)) =
      some (false, .formatError, 14) := by decide

/-- K3: the fourth row. -/
theorem test_decpar :
    after (exec .decpar (holding [0xE8#8, 0x03#8, 0x00#8, 0x01#8, 0xFF#8, 0xFF#8, 0x00#8, 0x00#8])) (fun t => (t.par, t.parV)) =
      some (⟨1000#16, 256#16, 65535#16, 0#16⟩, 0b1111#4) := by decide

/-- P4, operation 7: DECPAR of an empty buffer invalidates all four fields. -/
theorem test_decpar_short :
    after (exec .decpar { idle with parV := 0b1111#4 }) (fun t => (t.parV, t.result)) = some (0b0000#4, .formatError) := by decide

/-- K4: ENCPAR, high bytes not dropped. -/
theorem test_encpar :
    after (exec .encpar { idle with par := ⟨1000#16, 256#16, 65535#16, 0#16⟩, parV := 0b1111#4 }) (fun t => (t.txbuf.toList, t.txV)) =
      some ([0xE8#8, 0x03#8, 0x00#8, 0x01#8, 0xFF#8, 0xFF#8, 0x00#8, 0x00#8], true) := by decide

/-- K4: ENCPAR with one field missing. -/
theorem test_encpar_missing :
    after (exec .encpar { idle with parV := 0b0111#4, txV := true }) (fun t => (t.txV, t.result)) =
      some (false, .illegalOperation) := by decide

/-! ### The checksum and the error decoder -/

/-- X1: B13 agrees. -/
theorem test_chksum_good :
    after (exec .chksum (holding b13)) (fun t => (t.chkCalc, t.chkOk, t.chkV, t.result)) = some (0xCE#8, true, true, .ok) := by decide

/-- X1: thirteen times 0xFF; a mismatch is no error. -/
theorem test_chksum_mismatch :
    after (exec .chksum (holding (List.replicate 13 0xFF#8))) (fun t => (t.chkCalc, t.chkOk, t.result, t.errseen)) =
      some (0xF4#8, false, .ok, false) := by decide

/-- X2: 0xEF. -/
theorem test_errdec :
    after (exec .errdec { idle with pktV := true, pkt := ⟨0#32, 0#8, 0#16, 0#16, 0#16, 0xEF#8, 0#8⟩ }) (fun t => (t.errf, t.errc)) =
      some (1#2, .lowCurrent) := by decide

/-- X2: no decoded packet. -/
theorem test_errdec_none :
    after (exec .errdec { idle with errV := true }) (fun t => (t.errV, t.result)) = some (false, .illegalOperation) := by decide

/-- X3: code 5 is unknown, its low two bits are 1. -/
theorem test_errmap_unknown :
    after (exec (.errmap 5#8) idle) (fun t => (t.errf, t.errc, t.result)) = some (1#2, .unknown, .ok) := by decide

/-- X3: code 2. -/
theorem test_errmap_known :
    after (exec (.errmap 2#8) idle) (fun t => (t.errf, t.errc)) = some (2#2, .currentLimit) := by decide

/-! ### Steps of the machine -/

/-- R224: acceptance of FETCH empties the buffer; the word leaves the port. -/
theorem test_acceptance :
    after (step { holding b13 with hostOps := [0x0604000D#32], phase := .readyData })
      (fun t => (t.busy, t.opreg, t.phase, t.rxbuf, t.hostOps)) =
      some (true, 0x0604000D#32, .idle, [], []) := by decide

/-- 95_test_vectors.md 2.4: an illegal word completes at once and leaves the buffer alone. -/
theorem test_illegal_word :
    after (step { holding b13 with hostOps := [0x0604010D#32] }) (fun t => (t.busy, t.result, t.errseen, t.rxbuf, t.trace)) =
      some (false, .illegalOperation, true, b13, []) := by decide

/-- A placed word runs in the very next step. -/
theorem test_placed_word :
    after (step ((flying .poll 0 .opening [byteAnswer 0#8]).withFetchWord 32 0x01040000)) (fun t => t.trace) =
      some [wrote 0xC5#8] := by decide

/-- R232: an abort while idle is not remembered. -/
theorem test_abort_when_idle :
    after (step { idle with hostActs := [.abort] }) (fun t => t.abortPend) = some false := by decide

/-- R50: RESULT through the read port. -/
theorem test_read_result :
    after (step { idle with hostActs := [.read 0x002#12], result := .illegalOperation }) (fun t => t.readData) =
      some 5#32 := by decide

/-- What is left of an expansion and what the host presents, where there is a next state. -/
def issued (o : Host.Outcome (List Instr × State) Fault Refusal) : Option (List Instr × List Word) :=
  match o with
  | .next (rest, t) => some (rest, t.hostOps)
  | .fault _ => none
  | .refused _ => none

/-- R121, P4: READPAR issues its FETCH, and in the step that completes it with OK its DECPAR. -/
theorem test_pseudo_readpar :
    (beginPseudo .readpar idle).2.hostOps = [0x06060008#32] ∧ (beginPseudo .readpar idle).1 = [.decpar] ∧
    issued (pseudoStep [.decpar] (flying (.fetch 6#8 8#8) 4 .opening [blockAnswer (b13.take 8)])) =
      some ([], [0x14000000#32]) := by decide

/-- R121: an expansion stops at an error (a block a byte short) and, R263, at a reset in mid-operation. -/
theorem test_pseudo_stops :
    issued (pseudoStep [.decpar] (flying (.fetch 6#8 8#8) 4 .opening [blockAnswer (b13.take 7)])) = some ([], []) ∧
    issued (pseudoStep [.decpar] { flying (.fetch 6#8 8#8) 4 .opening [] with hostActs := [.reset 0#7] }) = some ([], []) := by
  decide

/-! ### For every obligation with hypotheses, a state and operands that meet them: one witness a clause, at the boundary values -/

theorem witness_RowsSelectedByMatchAndMask :
    decode 0x0604000D#32 = .ok (.fetch 4#8 13#8) ∧
    0x12040000#32 &&& maskBits (.setpar 0#8 0#16) = matchBits (.setpar 0#8 0#16) := ⟨by rfl, by decide⟩

theorem witness_IllegalWordsClassified :
    decodeLegal 0x08000000#32 = .error .unknownOpcode ∧ decodeLegal 0x01000001#32 = .error .mustBeZeroSet ∧
    decodeLegal 0x01090000#32 = .error .operandOutOfRange ∧ decodeLegal 0x01080000#32 = .ok (.sendcmd 8#8) :=
  ⟨by rfl, by rfl, by rfl, by rfl⟩

theorem witness_StepRunsTheDecodedOperation :
    let s := flying .rdcreg 1 .opening [byteAnswer 0x38#8]
    s.busy = true ∧ decode s.opreg = .ok .rdcreg ∧ s.hostActs = [] ∧
      (setHostActs [.pass] s).hostActs = .pass :: [] ∧ (setHostActs [.pass] s).busy = true :=
  ⟨rfl, by rfl, rfl, rfl, rfl⟩

theorem witness_PlacedWordRunsNext : decodeLegal 0x120303E8#32 = .ok (.setpar 3#8 1000#16) := by rfl

theorem witness_AcceptanceOfALegalWord :
    let s := { idle with hostOps := [0x01080000#32, 0x04000000#32] }
    (s.BlockMoves [] ∧ State.BlockMoves { s with hostActs := [.pass, .abort] } [.abort]) ∧ s.busy = false ∧ s.hostOps = 0x01080000#32 :: [0x04000000#32] ∧
      (Instr.sendcmd 8#8).wellFormed = true ∧ encode (.sendcmd 8#8) = 0x01080000#32 :=
  ⟨⟨.inl ⟨rfl, rfl⟩, .inr rfl⟩, rfl, rfl, rfl, by decide⟩

/-- The word is the first one out of range. -/
theorem witness_AcceptanceOfAnIllegalWord :
    let s := { idle with hostOps := [0x01090000#32] }
    s.BlockMoves [] ∧ s.busy = false ∧ s.hostOps = 0x01090000#32 :: [] ∧
      ∀ i : Instr, i.wellFormed = true → encode i ≠ 0x01090000#32 := by
  refine ⟨.inl ⟨rfl, rfl⟩, rfl, rfl, fun i hw he => ?_⟩
  have ho : opcField (encode i) = 1#8 := by rw [he]; rfl
  have ha : aField (encode i) = 9#8 := by rw [he]; rfl
  cases i <;> simp [encode] at ho ha
  subst ha
  simp [Instr.wellFormed] at hw

/-- An operation in flight, a word still presented, an error, no completion, an idle block just after OK, and a reset. -/
theorem witness_PseudoOperationsExpand :
    (flying .poll 0 .opening []).busy = true ∧ ({ idle with hostOps := [0x04000000#32] }).hostOps ≠ [] ∧
    (let s := { idle with result := .formatError }
     s.busy = false ∧ s.hostOps = [] ∧ s.result ≠ .ok) ∧
    (idle.busy = false ∧ idle.hostOps = [] ∧ idle.done = false) ∧
    (let s := { idle with done := true }
     s.busy = false ∧ s.hostOps = [] ∧ s.result = .ok ∧ s.done = true) ∧
    (let s := { flying .poll 0 .opening [] with hostActs := [.reset 0#7] }
     s.hostActs = .reset 0#7 :: [] ∧ s.hostOps = []) := by decide

theorem witness_BusyAcceptsNoWord :
    let s := { flying .clrbuf 0 .opening [] with hostOps := [0x04000000#32] }
    s.busy = true ∧ ∃ t, step s = .next t := ⟨rfl, _, rfl⟩

theorem witness_IdleBlockWaits :
    idle.BlockMoves [] ∧ State.BlockMoves { idle with hostActs := [.pass] } [] ∧ idle.busy = false ∧ idle.hostOps = [] :=
  ⟨.inl ⟨rfl, rfl⟩, .inr rfl, rfl, rfl⟩

theorem witness_AcceptanceForgetsPhase :
    let s := { idle with hostOps := [0x04000000#32], phase := .readyData }
    s.BlockMoves [] ∧ s.busy = false ∧ s.hostOps ≠ [] := ⟨.inl ⟨rfl, rfl⟩, rfl, by decide⟩

/-- A completion with OK, one with an error, and one with a transport error. -/
theorem witness_FallOfBusyIsACompletion :
    (let s := flying .clrbuf 0 .opening []
     s.busy = true ∧ s.hostActs = [] ∧ after (step s) (fun t => (t.busy, t.result)) = some (false, .ok)) ∧
    (let s := flying .decdata 0 .opening []
     s.busy = true ∧ s.hostActs = [] ∧ after (step s) (fun t => (t.busy, t.result)) = some (false, .formatError)) ∧
    (let s := flying .poll 0 .read [failAnswer 7#8]
     s.busy = true ∧ s.hostActs = [] ∧ after (step s) (fun t => (t.busy, t.result)) = some (false, .transportError)) := by
  decide

/-- A completion of each result that is not OK, each on a ground of its own. -/
theorem witness_OperationResults :
    (let s := flying (.fetch 4#8 13#8) 4 .opening [blockAnswer (b13.take 12)]
     s.busy = true ∧ after (exec (.fetch 4#8 13#8) s) (fun t => (t.busy, t.result)) = some (false, .protocolError)) ∧
    (let s := flying .decpar 0 .opening []
     s.busy = true ∧ after (exec .decpar s) (fun t => (t.busy, t.result)) = some (false, .formatError)) ∧
    (let s := { flying (.rstch 1#8) 2 .read [byteAnswer 0xDF#8] with pollcnt := 2#16 }
     s.busy = true ∧ after (exec (.rstch 1#8) s) (fun t => (t.busy, t.result)) = some (false, .operationTimedOut)) ∧
    (let s := flying .isrdy 1 .opening [failAnswer 7#8]
     s.busy = true ∧ after (exec .isrdy s) (fun t => (t.busy, t.result)) = some (false, .transportError)) ∧
    (let s := flying .errdec 0 .opening []
     s.busy = true ∧ after (exec .errdec s) (fun t => (t.busy, t.result)) = some (false, .illegalOperation)) := by decide

theorem witness_OutOfRangeOperandIsIllegal :
    (Instr.sendcmd 9#8).wellFormed = false ∧ (Instr.rstch 2#8).wellFormed = false ∧
    (Instr.fetch 9#8 0#8).wellFormed = false ∧ (Instr.setpar 4#8 0#16).wellFormed = false := by decide

theorem witness_SendcmdWritesThenCompletes :
    let s := flying (.sendcmd 8#8) 0 .opening [byteAnswer 0#8]
    let u := flying (.sendcmd 8#8) 1 .opening []
    (8#8).toNat < 9 ∧ s.abortPend = false ∧ s.ustep.item = 0 ∧ (nextAnswer s).failure = none ∧
      u.abortPend = false ∧ u.ustep.item = 1 := by decide

/-- RDCREG, ISRDY and GETERR: at the write and at the read. -/
theorem witness_ByteReads (i : Instr) :
    (∀ n, (flying i n .opening [byteAnswer 0xFF#8]).abortPend = false ∧
      (nextAnswer (flying i n .opening [byteAnswer 0xFF#8])).failure = none) ∧
    (flying i 0 .opening [byteAnswer 0xFF#8]).ustep.item = 0 ∧ (flying i 1 .opening [byteAnswer 0xFF#8]).ustep.item = 1 :=
  ⟨fun _ => ⟨rfl, rfl⟩, rfl, rfl⟩

theorem witness_RdcregFetchesTheByte :
    let s := flying .rdcreg 1 .opening [byteAnswer 0x38#8]
    s.abortPend = false ∧ (nextAnswer s).failure = none ∧ s.ustep.item = 1 := by decide

theorem witness_IsrdyExtractsBitFive :
    let s := flying .isrdy 1 .opening [byteAnswer 0x20#8]
    s.abortPend = false ∧ (nextAnswer s).failure = none ∧ s.ustep.item = 1 := by decide

theorem witness_GeterrDecodesTheErrorBits :
    let s := flying .geterr 1 .opening [byteAnswer 0x18#8]
    s.abortPend = false ∧ (nextAnswer s).failure = none ∧ s.ustep.item = 1 := by decide

/-- The write, then a read that is ready, one that exhausts the bound of 3, and one that goes on. -/
theorem witness_PollAttemptDecides :
    (let s := flying .poll 0 .opening [byteAnswer 0#8]
     Instr.poll.wellFormed = true ∧ isPollItem .poll s.ustep.item = true ∧
       s.abortPend = false ∧ (nextAnswer s).failure = none ∧ s.ustep.item = 0 ∧ s.ustep.sub ≠ .read) ∧
    (let s := flying (.fetch 8#8 13#8) 3 .write [byteAnswer 0#8]
     (Instr.fetch 8#8 13#8).wellFormed = true ∧ isPollItem (.fetch 8#8 13#8) s.ustep.item = true ∧
       s.abortPend = false ∧ (nextAnswer s).failure = none ∧ s.ustep.sub ≠ .read) ∧
    (let s := { flying (.rstch 1#8) 2 .read [byteAnswer 0xDF#8] with pollcnt := 2#16 }
     (Instr.rstch 1#8).wellFormed = true ∧ isPollItem (.rstch 1#8) s.ustep.item = true ∧
       s.abortPend = false ∧ (nextAnswer s).failure = none ∧ s.ustep.sub = .read ∧
       (nextAnswer s).byte &&& 0x20#8 = 0#8 ∧ (3#16).toNat = min (s.pollcnt.toNat + 1) 65535 ∧ 3#16 = s.cfg.maxPoll) ∧
    (let s := flying .poll 0 .read [byteAnswer 0x20#8]
     s.abortPend = false ∧ (nextAnswer s).failure = none ∧ s.ustep.item = 0 ∧ s.ustep.sub = .read ∧
       (nextAnswer s).byte &&& 0x20#8 ≠ 0#8) ∧
    (let s := { flying .poll 0 .read [byteAnswer 0xDF#8] with pollcnt := 2#16 }
     s.ustep.sub = .read ∧ (nextAnswer s).byte &&& 0x20#8 = 0#8 ∧ s.cfg.maxPoll ≠ 0#16 ∧
       (3#16).toNat = min (s.pollcnt.toNat + 1) 65535 ∧ 3#16 = s.cfg.maxPoll) ∧
    (let s := { flying .poll 0 .read [byteAnswer 0xDF#8] with pollcnt := 1#16 }
     s.ustep.sub = .read ∧ (nextAnswer s).byte &&& 0x20#8 = 0#8 ∧
       (2#16).toNat = min (s.pollcnt.toNat + 1) 65535 ∧ ¬(s.cfg.maxPoll ≠ 0#16 ∧ 2#16 = s.cfg.maxPoll)) := by decide

theorem witness_RstchStepsAndCompletes :
    (1#8).toNat < 2 ∧
    (let s := flying (.rstch 1#8) 0 .opening [byteAnswer 0#8]
     s.abortPend = false ∧ (nextAnswer s).failure = none ∧ s.ustep.item = 0) ∧
    (let s := flying (.rstch 1#8) 1 .opening [byteAnswer 0#8]
     s.abortPend = false ∧ (nextAnswer s).failure = none ∧ s.ustep.item = 1) ∧
    (let s := flying (.rstch 1#8) 2 .write [byteAnswer 0#8]
     s.abortPend = false ∧ (nextAnswer s).failure = none ∧ s.ustep.item = 2 ∧ s.ustep.sub ≠ .read) ∧
    (let s := flying (.rstch 1#8) 2 .read [byteAnswer 0xFF#8]
     s.abortPend = false ∧ (nextAnswer s).failure = none ∧ s.ustep = ⟨2, .read⟩ ∧
       (nextAnswer s).byte &&& 0x20#8 ≠ 0#8) := by decide

/-- A block of the right length, and one a byte short. -/
theorem witness_FetchBlockReadDecides :
    (8#8).toNat < 9 ∧
    (let s := flying (.fetch 8#8 13#8) 4 .opening [blockAnswer b13]
     s.ustep.item = 4 ∧ s.abortPend = false ∧ (nextAnswer s).failure = none ∧ (nextAnswer s).block.length ≤ 255 ∧
       (nextAnswer s).block.length = (13#8).toNat) ∧
    (let s := flying (.fetch 8#8 13#8) 4 .opening [blockAnswer (b13.take 12)]
     s.ustep.item = 4 ∧ s.abortPend = false ∧ (nextAnswer s).failure = none ∧ (nextAnswer s).block.length ≤ 255 ∧
       (nextAnswer s).block.length ≠ (13#8).toNat) := by decide

theorem witness_FetchStepsToTheBlockRead :
    (8#8).toNat < 9 ∧
    (let s := flying (.fetch 8#8 13#8) 0 .opening [byteAnswer 0#8]
     s.abortPend = false ∧ (nextAnswer s).failure = none ∧ s.ustep.item = 0) ∧
    (let s := flying (.fetch 8#8 13#8) 2 .opening [byteAnswer 0#8]
     s.abortPend = false ∧ (nextAnswer s).failure = none ∧ s.ustep.item = 2) ∧
    (let s := flying (.fetch 8#8 13#8) 3 .opening [byteAnswer 0#8]
     s.abortPend = false ∧ (nextAnswer s).failure = none ∧ s.ustep.item = 3 ∧ s.ustep.sub ≠ .read) ∧
    (let s := flying (.fetch 8#8 13#8) 1 .read [byteAnswer 0x20#8]
     s.ustep.item = 1 ∧ s.ustep.sub = .read ∧ (nextAnswer s).byte &&& 0x20#8 ≠ 0#8) ∧
    (let s := flying (.fetch 8#8 13#8) 3 .read [byteAnswer 0x20#8]
     s.ustep.item = 3 ∧ s.ustep.sub = .read ∧ (nextAnswer s).byte &&& 0x20#8 ≠ 0#8) := by decide

/-- An operation just accepted is in flight. -/
theorem flying_inFlight (i : Instr) (h : decode (encode i) = .ok i) (item : Nat) (sub : Sub) (d : List DevAnswer) :
    (flying i item sub d).InFlight i := ⟨rfl, h, rfl, rfl⟩

/-- An attempt whose byte has bit 5 clear, and one whose byte has bit 5 alone. -/
def lateAttempt : DevAnswer × DevAnswer := (byteAnswer 0#8, byteAnswer 0xDF#8)
def readyAttempt : DevAnswer × DevAnswer := (byteAnswer 0#8, byteAnswer 0x20#8)

theorem lateAttempt_notReady : NotReady lateAttempt := ⟨rfl, rfl, by decide⟩
theorem readyAttempt_isReady : IsReady readyAttempt := ⟨rfl, rfl, by decide⟩

/-- Two attempts before the ready one, with `MAX_POLL = 3`: the last attempt allowed. -/
theorem witness_PollReturnsAtTheFirstReady :
    let early := [lateAttempt, lateAttempt]
    let s := flying .poll 0 .opening (attemptScript (early ++ [readyAttempt]) ++ [])
    s.InFlight .poll ∧ s.ustep = ⟨0, .opening⟩ ∧ s.dev = attemptScript (early ++ [readyAttempt]) ++ [] ∧
      (∀ p ∈ early, NotReady p) ∧ IsReady readyAttempt ∧ early.length + 1 ≤ s.cfg.maxPoll.toNat :=
  ⟨flying_inFlight _ (by rfl) _ _ _, rfl, rfl, by simp [lateAttempt_notReady], readyAttempt_isReady, by decide⟩

/-- In the second poll of a FETCH. -/
theorem witness_PollTimesOutAfterTheBound :
    let ps := [lateAttempt, lateAttempt, lateAttempt]
    let i := Instr.fetch 4#8 13#8
    let s := flying i 3 .opening (attemptScript ps ++ [])
    i.wellFormed = true ∧ isPollItem i 3 = true ∧ s.InFlight i ∧ s.ustep = ⟨3, .opening⟩ ∧ s.dev = attemptScript ps ++ [] ∧ (∀ p ∈ ps, NotReady p) ∧
      s.cfg.maxPoll ≠ 0#16 ∧ ps.length = s.cfg.maxPoll.toNat :=
  ⟨rfl, rfl, flying_inFlight _ (by rfl) _ _ _, rfl, rfl, by simp [lateAttempt_notReady], by decide, by decide⟩

theorem witness_UnboundedPollNeverEnds :
    let ps := [lateAttempt, lateAttempt]
    let s := { flying .poll 0 .opening (attemptScript ps ++ []) with cfg := { tcfg with maxPoll := 0#16 } }
    s.InFlight .poll ∧ s.ustep = ⟨0, .opening⟩ ∧ s.dev = attemptScript ps ++ [] ∧ (∀ p ∈ ps, NotReady p) ∧
      s.cfg.maxPoll = 0#16 ∧ ps ≠ [] :=
  ⟨⟨rfl, by rfl, rfl, rfl⟩, rfl, rfl, by simp [lateAttempt_notReady], rfl, by simp⟩

theorem witness_RstchRunsWriteWritePoll :
    let s := flying (.rstch 1#8) 0 .opening [byteAnswer 0#8, byteAnswer 0#8, readyAttempt.1, readyAttempt.2]
    (1#8).toNat < 2 ∧ s.InFlight (.rstch 1#8) ∧ s.ustep = ⟨0, .opening⟩ ∧
      s.dev = byteAnswer 0#8 :: byteAnswer 0#8 :: readyAttempt.1 :: readyAttempt.2 :: [] ∧
      (byteAnswer 0#8).failure = none ∧ IsReady readyAttempt :=
  ⟨by decide, flying_inFlight _ (by rfl) _ _ _, rfl, rfl, rfl, readyAttempt_isReady⟩

theorem witness_FetchRunsToTheBlock :
    let d := byteAnswer 0#8
    let s := flying (.fetch 4#8 13#8) 0 .opening
      [d, readyAttempt.1, readyAttempt.2, d, readyAttempt.1, readyAttempt.2, blockAnswer b13]
    (4#8).toNat < 9 ∧ s.InFlight (.fetch 4#8 13#8) ∧ s.ustep = ⟨0, .opening⟩ ∧
      s.dev = d :: readyAttempt.1 :: readyAttempt.2 :: d :: readyAttempt.1 :: readyAttempt.2 :: blockAnswer b13 :: [] ∧
      d.failure = none ∧ (blockAnswer b13).failure = none ∧ IsReady readyAttempt ∧
      (blockAnswer b13).block.length = (13#8).toNat :=
  ⟨by decide, flying_inFlight _ (by rfl) _ _ _, rfl, rfl, rfl, rfl, readyAttempt_isReady, by decide⟩

/-- A failed write, a failed read inside an attempt, and a failed block read. -/
theorem witness_TransportFailureEndsTheOperation :
    (let s := flying (.sendcmd 8#8) 0 .opening [failAnswer 0x2A#8]
     (Instr.sendcmd 8#8).wellFormed = true ∧ s.abortPend = false ∧ busKindAt (.sendcmd 8#8) s.ustep = some .w ∧
       (nextAnswer s).failure = some 0x2A#8) ∧
    (let s := flying .isrdy 1 .opening [failAnswer 0x07#8]
     Instr.isrdy.wellFormed = true ∧ s.abortPend = false ∧ busKindAt .isrdy s.ustep = some .r ∧
       (nextAnswer s).failure = some 0x07#8) ∧
    (let s := flying (.fetch 4#8 13#8) 4 .opening [failAnswer 0x33#8]
     (Instr.fetch 4#8 13#8).wellFormed = true ∧ s.abortPend = false ∧ busKindAt (.fetch 4#8 13#8) s.ustep = some .br ∧
       (nextAnswer s).failure = some 0x33#8) := by decide

theorem witness_AbortEndsASequencerOperation :
    (let s := { flying .poll 0 .write [] with hostActs := [.abort] }
     s.hostActs = .abort :: []) ∧
    (let s := { flying (.sendcmd 8#8) 1 .opening [] with abortPend := true }
     (Instr.sendcmd 8#8).wellFormed = true ∧ isBusOp (.sendcmd 8#8) = true ∧ s.ustep.item < itemCount (.sendcmd 8#8) ∧
       s.abortPend = true) ∧
    isBusOp (.errmap 0#8) = false := by decide

theorem witness_ErrseenIsSticky :
    let s := { flying .clrbuf 0 .opening [] with errseen := true }
    ((∃ t, step s = .next t) ∧ s.errseen = true ∧ s.hostActs = []) ∧
      after (step (flying .decdata 0 .opening [])) (fun t => (t.busy, t.result)) = some (false, .formatError) ∧
      after (step { idle with hostOps := [0x00000000#32] }) (fun t => (t.hostOps.length, t.busy, t.result)) =
        some (0, false, .illegalOperation) ∧
      (∃ t, step { s with hostActs := [.reset 0#7] } = .next t) ∧
      ({ s with hostActs := [.read 0x003#12] }).hostActs = .read 0x003#12 :: [] :=
  ⟨⟨⟨_, rfl⟩, rfl, rfl⟩, by decide, by decide, ⟨_, rfl⟩, rfl⟩

set_option maxRecDepth 8000 in
theorem witness_PushbAppendsUntilFull :
    (holding (List.replicate 254 0#8)).rxbuf.length < 255 ∧ (holding (List.replicate 255 0#8)).rxbuf.length = 255 := by decide

theorem witness_SetparWritesOneField : (3#8).toNat < 4 ∧ (0#8).toNat < 4 ∧ 3 < (4#8).toNat := by decide

theorem witness_DecdataDecodesThirteenBytes :
    (holding b13).rxbuf =
      [0x45#8, 0x23#8, 0x01#8, 0x00#8, 0x80#8, 0x34#8, 0x12#8, 0x80#8, 0x0C#8, 0x00#8, 0x03#8, 0x10#8, 0xCE#8] := rfl

theorem witness_DecparDecodesEightBytes :
    (holding (b13.take 8)).rxbuf = [0x45#8, 0x23#8, 0x01#8, 0x00#8, 0x80#8, 0x34#8, 0x12#8, 0x80#8] := rfl

theorem witness_EncparEncodesEveryField :
    ({ idle with parV := 0b1111#4 }).parV = 0b1111#4 ∧ ({ idle with parV := 0b0111#4 }).parV ≠ 0b1111#4 := by decide

/-- The wrong lengths of DECDATA, DECPAR and CHKSUM: thirteen bytes are wrong for DECPAR, eight for DECDATA and CHKSUM. -/
theorem witness_WrongLengths :
    (holding (b13.take 8)).rxbuf.length ≠ 13 ∧ (holding b13).rxbuf.length ≠ 8 := by decide

theorem witness_ParameterPacketRoundTrips :
    ({ idle with parV := 0b1111#4 }).parV = 0b1111#4 ∧ (holding (b13.take 8)).rxbuf.length = 8 := by decide

theorem witness_ChksumComparesAndReports :
    (b13.take 12).length = 12 ∧ (holding b13).rxbuf = b13.take 12 ++ [0xCE#8] ∧ (holding b13).cfg.checksum = .sum8 ∧
      ({ idle with cfg := { tcfg with checksum := .uninterpreted } }).cfg.checksum = .uninterpreted := by decide

theorem witness_ErrdecDecodesThePacketByte :
    ({ idle with pktV := true }).pktV = true ∧ idle.pktV = false := by decide

/-- `unknown` written by ERRMAP, and `unknown` kept by an operation that writes no error register. -/
theorem witness_OnlyErrmapWritesUnknown :
    after (exec (.errmap 4#8) idle) (fun t => (t.errV, t.errc)) = some (true, .unknown) ∧
    after (exec .clrbuf { idle with errV := true, errc := .unknown }) (fun t => (t.errV, t.errc)) = some (true, .unknown) := by
  decide

/-- SENDCMD at its write (no byte read: `busKindAt`), POLL at a read that goes on, GETERR at its end. -/
theorem witness_SequencerFrames :
    (isBusOp (.sendcmd 0#8) = true ∧ isFetch (.sendcmd 0#8) = false ∧ busKindAt (.sendcmd 0#8) ⟨0, .opening⟩ ≠ some .r ∧
      ∃ t, exec (.sendcmd 0#8) (flying (.sendcmd 0#8) 0 .opening [byteAnswer 0#8]) = .next t ∧ t.busy = true) ∧
    (isBusOp .poll = true ∧
      ∃ t, exec .poll (flying .poll 0 .read [byteAnswer 0#8]) = .next t ∧ t.result ≠ .transportError) ∧
    (isBusOp .geterr = true ∧ isPollItem .geterr 1 = false ∧
      ∃ t, exec .geterr (flying .geterr 1 .opening [byteAnswer 0x18#8]) = .next t ∧ t.busy = false) :=
  ⟨⟨rfl, rfl, by decide, _, rfl, rfl⟩, ⟨rfl, _, rfl, by decide⟩, ⟨rfl, rfl, _, rfl, rfl⟩⟩

theorem witness_OneStepOperationFrames :
    isBusOp .clrbuf = false ∧ isBusOp (.pushb 0#8) = false ∧ isBusOp (.setpar 0#8 0#16) = false ∧ isBusOp .decdata = false ∧
    isBusOp .decpar = false ∧ isBusOp .encpar = false ∧ isBusOp .chksum = false ∧ isBusOp .errdec = false ∧
    isBusOp (.errmap 0#8) = false := by decide

/-- FETCH in its first poll, at a read. -/
def fetching : State :=
  { flying (.fetch 4#8 13#8) 1 .read [byteAnswer 0x20#8] with phase := .cmdPending, pollcnt := 2#16 }

/-- RSTCH in its poll, at a read. -/
def resetting : State :=
  { flying (.rstch 1#8) 2 .read [byteAnswer 0x20#8] with phase := .opPending, pollcnt := 2#16 }

theorem fetching_flightOk : FlightOk (.fetch 4#8 13#8) fetching := ⟨by decide, rfl, fun _ _ _ => by decide, fun _ => rfl⟩

theorem witness_PhaseMovesAlongItsEdges :
    (FlightOk (.fetch 4#8 13#8) fetching ∧ after (exec (.fetch 4#8 13#8) fetching) (fun t => t.phase) = some .ready) ∧
    (FlightOk (.rstch 1#8) resetting ∧ after (exec (.rstch 1#8) resetting) (fun t => t.phase) = some .readyData) :=
  ⟨⟨fetching_flightOk, by decide⟩, ⟨⟨by decide, rfl, fun _ _ _ => by decide, fun h => by cases h⟩, by decide⟩⟩

/-- The invariant in a state in the middle of an operation. -/
theorem fetching_inv : fetching.Inv where
  capacity := by decide
  noAbortWhenIdle := fun h => by cases h
  idlePhase := fun h => by cases h
  sticky := fun h => absurd rfl h
  pulse := fun h => by cases h
  errorPair := fun h => by cases h
  flight := fun _ => ⟨.fetch 4#8 13#8, by rfl, fetching_flightOk⟩

theorem witness_StepKeepsTheInvariant : fetching.Inv ∧ ∃ t, step fetching = .next t := ⟨fetching_inv, _, rfl⟩

/-- A trace with an event of each kind the block issues, in a state that steps. -/
theorem witness_StepKeepsTheBusDiscipline :
    let s := { fetching with trace := [wrote 0xC1#8, wrote 0xC4#8, .failed .r 0x12#7 7#8, read 0xFF#8, .blockRead 0x12#7 13#8 b13] }
    s.BusDiscipline ∧ ∃ t, step s = .next t := by
  refine ⟨fun e he => ?_, _, rfl⟩
  simp only [List.mem_cons, List.not_mem_nil, or_false] at he
  rcases he with rfl | rfl | rfl | rfl | rfl
  · exact ⟨rfl, rfl, .wrCmdReg, rfl⟩
  · exact ⟨rfl, rfl, .rdCmdReg, rfl⟩
  · exact rfl
  · exact ⟨rfl, rfl⟩
  · exact ⟨rfl, by decide⟩

theorem witness_MachineNeverStops : fetching.Inv := fetching_inv

/-- A step of each of the three kinds. -/
theorem witness_OneTransactionAStep :
    after (step idle) (fun t => t.trace) = some [] ∧
    after (step fetching) (fun t => t.trace) = some [read 0x20#8] ∧
    after (step { fetching with trace := [wrote 0xC1#8], hostActs := [.reset 0x34#7] }) (fun t => t.trace) = some [] := by
  decide

theorem witness_ParametersNeverChange :
    (∃ t, step fetching = .next t ∧ fetching.hostActs = []) ∧
    after (step { fetching with hostActs := [.reset 0x34#7] }) (fun t => t.devAddr) = some 0x34#7 :=
  ⟨⟨_, rfl, rfl⟩, by decide⟩

theorem witness_BoundedOperationsEnd :
    fetching.Inv ∧ fetching.busy = true ∧ fetching.hostActs = [] ∧ fetching.cfg.maxPoll ≠ 0#16 :=
  ⟨fetching_inv, rfl, rfl, by decide⟩

theorem witness_StepsLeftFall :
    fetching.Inv ∧ fetching.busy = true ∧ decode fetching.opreg = .ok (.fetch 4#8 13#8) ∧ fetching.BlockMoves [] ∧
      fetching.cfg.maxPoll ≠ 0#16 ∧ ∃ t, step fetching = .next t :=
  ⟨fetching_inv, rfl, by rfl, .inl ⟨rfl, rfl⟩, by decide, _, rfl⟩

theorem witness_ResetLeavesTheStatedValues :
    let s := { fetching with hostActs := [.reset 0x34#7] }
    s.hostActs = .reset 0x34#7 :: [] ∧ ∃ t, step s = .next t := ⟨rfl, _, rfl⟩

/-- A register with no valid flag, and one that holds a value. -/
theorem witness_HostReadAnswersAndChangesNothing :
    ({ idle with hostActs := [.read 0x032#12] }).hostActs = .read 0x032#12 :: [] ∧ (0x032#12).toNat = 0x032 ∧
    ({ idle with hostActs := [.read 0x006#12], cmdvalV := true }).cmdvalV = true ∧ (0x006#12).toNat = 0x006 := by decide

/-- `RXLEN`, the ends of `TXBUF` and of `CMD_BYTE`, and the last byte of thirteen in `RXBUF`. -/
theorem witness_HostReadsTheBuffers :
    (holding b13).rxbuf.length ≤ 255 ∧ (0x010#12).toNat = 0x010 ∧
    ((0x027#12).toNat = 0x020 + (7 : Fin 8) ∧ ({ idle with txV := true }).txV = true) ∧
    (0x048#12).toNat = 0x040 + (8 : Fin 9) ∧
    ((0x10C#12).toNat = 0x100 + 12 ∧ (holding b13).rxbuf[12]? = some 0xCE#8) := by decide

end Sys2Proof.Tests
end

section
/-! PROOFS of the family 00_scope.md: what a step is when an operation is in flight, and that no step changes a parameter. The
lemmas say once what a step and a step of the block can do, and which surroundings of an operation every meaning leaves alone. -/

namespace Sys2Proof.Machine

/-! ### What a step can do -/

theorem setHostActs_self {s : State} {acts : List HostAct} (h : s.hostActs = acts) : setHostActs acts s = s := by
  subst h; rfl

theorem step_of_blockMoves {s : State} {acts : List HostAct} (h : s.BlockMoves acts) :
    step s = blockStep (clearDone (setHostActs acts s)) := by
  rcases h with ⟨hq, rfl⟩ | hp
  · simp [step, hq, setHostActs_self]
  · simp [step, hp]

/-- A next state comes from a step of the block or from an action of the host (R12, R130). -/
theorem step_cases {s t : State} (h : step s = .next t) :
    (∃ acts, s.BlockMoves acts ∧ blockStep (clearDone (setHostActs acts s)) = .next t) ∨
    (∃ act rest, s.hostActs = act :: rest ∧ act ≠ .pass ∧ t = hostStep act (clearDone (setHostActs rest s))) := by
  have block : ∀ acts, s.BlockMoves acts → blockStep (clearDone (setHostActs acts s)) = .next t :=
    fun acts hm => step_of_blockMoves hm ▸ h
  cases ha : s.hostActs with
  | nil => exact .inl ⟨[], .inl ⟨ha, rfl⟩, block _ (.inl ⟨ha, rfl⟩)⟩
  | cons act rest =>
    cases act with
    | pass => exact .inl ⟨rest, .inr ha, block _ (.inr ha)⟩
    | abort | read n | reset pins =>
      simp only [step, ha, Host.Outcome.next.injEq] at h
      exact .inr ⟨_, rest, rfl, by simp, h.symm⟩

theorem blockStep_of_busy {s : State} {i : Instr} (hb : s.busy = true) (hd : decode s.opreg = .ok i) :
    blockStep s = exec i s := by
  simp [blockStep, hb, hd]

/-- A next state of the block comes from the operation in flight, from an illegal word found in flight, or, when the block is idle,
from `acceptNext` (R130, R220, R229). -/
theorem blockStep_cases {s t : State} (h : blockStep s = .next t) :
    (∃ i, s.busy = true ∧ decode s.opreg = .ok i ∧ exec i s = .next t) ∨
    (∃ r, s.busy = true ∧ decode s.opreg = .error r ∧ t = raise .illegalOperation s) ∨
    (s.busy = false ∧ t = acceptNext s) := by
  cases hb : s.busy with
  | false => exact .inr (.inr ⟨rfl, by simpa [blockStep, hb, eq_comm] using h⟩)
  | true =>
    cases hd : decode s.opreg with
    | ok i => exact .inl ⟨i, rfl, rfl, blockStep_of_busy hb hd ▸ h⟩
    | error r => exact .inr (.inl ⟨r, rfl, rfl, by simpa [blockStep, hb, hd, eq_comm] using h⟩)

/-! ### What every meaning leaves alone -/

@[simp] theorem cleanupOf_surroundings (i : Instr) (s : State) :
    (cleanupOf i s).cfg = s.cfg ∧ (cleanupOf i s).devAddr = s.devAddr ∧ (cleanupOf i s).opreg = s.opreg ∧
    (cleanupOf i s).hostOps = s.hostOps ∧ (cleanupOf i s).hostActs = s.hostActs ∧
    (cleanupOf i s).readData = s.readData := by
  unfold cleanupOf; split <;> simp

@[simp] theorem openedAt_surroundings (i : Instr) (s : State) :
    (openedAt i s).cfg = s.cfg ∧ (openedAt i s).devAddr = s.devAddr ∧ (openedAt i s).opreg = s.opreg ∧
    (openedAt i s).hostOps = s.hostOps ∧ (openedAt i s).hostActs = s.hostActs ∧
    (openedAt i s).readData = s.readData := by
  unfold openedAt; split <;> simp

@[simp] theorem abortedAt_surroundings (i : Instr) (s : State) :
    (abortedAt i s).cfg = s.cfg ∧ (abortedAt i s).devAddr = s.devAddr ∧ (abortedAt i s).opreg = s.opreg ∧
    (abortedAt i s).hostOps = s.hostOps ∧ (abortedAt i s).hostActs = s.hostActs ∧
    (abortedAt i s).readData = s.readData := by
  unfold abortedAt; split <;> simp

@[simp] theorem failedAt_surroundings (i : Instr) (u : Ustep) (k : BusKind) (s : State) :
    (failedAt i u k s).cfg = s.cfg ∧ (failedAt i u k s).devAddr = s.devAddr ∧ (failedAt i u k s).opreg = s.opreg ∧
    (failedAt i u k s).hostOps = s.hostOps ∧ (failedAt i u k s).hostActs = s.hostActs ∧
    (failedAt i u k s).readData = s.readData := by
  unfold failedAt; split <;> split <;> simp

@[simp] theorem writtenAt_surroundings (i : Instr) (u : Ustep) (s : State) :
    (writtenAt i u s).cfg = s.cfg ∧ (writtenAt i u s).devAddr = s.devAddr ∧ (writtenAt i u s).opreg = s.opreg ∧
    (writtenAt i u s).hostOps = s.hostOps ∧ (writtenAt i u s).hostActs = s.hostActs ∧
    (writtenAt i u s).readData = s.readData := by
  unfold writtenAt
  split
  · simp
  · split <;> simp

@[simp] theorem byteReadAt_surroundings (i : Instr) (v : Byte) (s : State) :
    (byteReadAt i v s).cfg = s.cfg ∧ (byteReadAt i v s).devAddr = s.devAddr ∧ (byteReadAt i v s).opreg = s.opreg ∧
    (byteReadAt i v s).hostOps = s.hostOps ∧ (byteReadAt i v s).hostActs = s.hostActs ∧
    (byteReadAt i v s).readData = s.readData := by
  unfold byteReadAt; split <;> simp

@[simp] theorem readyAt_surroundings (i : Instr) (u : Ustep) (s : State) :
    (readyAt i u s).cfg = s.cfg ∧ (readyAt i u s).devAddr = s.devAddr ∧ (readyAt i u s).opreg = s.opreg ∧
    (readyAt i u s).hostOps = s.hostOps ∧ (readyAt i u s).hostActs = s.hostActs ∧
    (readyAt i u s).readData = s.readData := by
  unfold readyAt; split <;> simp

theorem SequencerEnd.sameSurroundings {i : Instr} {s t : State} (h : SequencerEnd i s t) : SameSurroundings s t := by
  cases h <;> (subst t; simp [SameSurroundings])

/-- The operations without bus transactions write their destination group and their completion only (R170). -/
theorem dataOp_sameSurroundings {i : Instr} {s t : State} (hb : isBusOp i = false) (h : exec i s = .next t) :
    SameSurroundings s t := by
  cases i with
  | sendcmd | rdcreg | isrdy | poll | rstch | fetch | geterr => simp [isBusOp] at hb
  | clrbuf | errmap => cases h; simp [SameSurroundings]
  | pushb | setpar | decdata | decpar | encpar | chksum | errdec =>
    simp only [exec, execPushb, execSetpar, execDecdata, execDecpar, execEncpar, execChksum, execErrdec] at h
    split at h <;> cases h <;> simp [SameSurroundings]

theorem exec_sameSurroundings {i : Instr} {s t : State} (h : exec i s = .next t) : SameSurroundings s t := by
  cases hb : isBusOp i with
  | true => exact (sequencer_ends i s t hb h).sameSurroundings
  | false => exact dataOp_sameSurroundings hb h

/-! ### What acceptance, a step of the block and the host leave alone -/

theorem onAccept_parameters (i : Instr) (s : State) : (onAccept i s).cfg = s.cfg ∧ (onAccept i s).devAddr = s.devAddr := by
  unfold onAccept; split <;> simp

theorem accept_parameters (w : Word) (s : State) : (accept w s).cfg = s.cfg ∧ (accept w s).devAddr = s.devAddr := by
  unfold accept
  split
  · simp [onAccept_parameters]
  · simp

theorem acceptNext_parameters (s : State) : (acceptNext s).cfg = s.cfg ∧ (acceptNext s).devAddr = s.devAddr := by
  unfold acceptNext
  split
  · simp
  · simp [accept_parameters]

theorem blockStep_parameters {s t : State} (h : blockStep s = .next t) : t.cfg = s.cfg ∧ t.devAddr = s.devAddr := by
  rcases blockStep_cases h with ⟨i, -, -, he⟩ | ⟨r, -, -, rfl⟩ | ⟨-, rfl⟩
  · obtain ⟨hcfg, haddr, -⟩ := exec_sameSurroundings he
    exact ⟨hcfg, haddr⟩
  · simp
  · exact acceptNext_parameters s

theorem raiseAbort_parameters (s : State) : (raiseAbort s).cfg = s.cfg ∧ (raiseAbort s).devAddr = s.devAddr := by
  unfold raiseAbort; split <;> simp

theorem hostRead_parameters (n : BitVec 12) (s : State) :
    (hostRead n s).cfg = s.cfg ∧ (hostRead n s).devAddr = s.devAddr := by
  unfold hostRead; split <;> simp

/-- Of the host's actions only a reset writes `DEV_ADDR`, and none writes a parameter (R262, R264). -/
theorem hostStep_parameters (act : HostAct) (s : State) :
    (hostStep act s).cfg = s.cfg ∧ ((∀ p, act ≠ .reset p) → (hostStep act s).devAddr = s.devAddr) ∧
      ∀ p, act = .reset p → (hostStep act s).devAddr = p := by
  cases act with
  | pass => simp [hostStep]
  | abort => simp [hostStep, raiseAbort_parameters]
  | read n => simp [hostStep, hostRead_parameters]
  | reset pins => simp [hostStep, resetBlock]

/-! ### The obligations -/

/-- Settles O6: the step is one of the block, whose operation in flight is the one decoded. -/
theorem stepRunsTheDecodedOperation : Obligations.StepRunsTheDecodedOperation := by
  intro s i hb hd
  have run : ∀ acts, s.BlockMoves acts → step s = exec i (clearDone (setHostActs acts s)) := fun acts hm => by
    rw [step_of_blockMoves hm, blockStep_of_busy (by simpa using hb) (by simpa using hd)]
  refine ⟨fun hq => ?_, fun rest hp => run rest (.inr hp)⟩
  rw [run [] (.inl ⟨hq, rfl⟩), setHostActs_self hq]
  rfl

/-- Settles O51: a step of the block keeps the parameters and `DEV_ADDR`, and of the host's actions only a reset samples it. -/
theorem parametersNeverChange : Obligations.ParametersNeverChange := by
  intro s t h
  rcases step_cases h with ⟨acts, hm, hblock⟩ | ⟨act, rest, ha, -, rfl⟩
  · obtain ⟨hcfg, haddr⟩ := blockStep_parameters hblock
    have noReset : ∀ p rest, s.hostActs ≠ .reset p :: rest := fun p rest hr => by
      simp [State.BlockMoves, hr] at hm
    exact ⟨by simpa using hcfg, fun _ => by simpa using haddr, fun p rest hr => absurd hr (noReset p rest)⟩
  · obtain ⟨hcfg, hkeep, hsample⟩ := hostStep_parameters act (clearDone (setHostActs rest s))
    refine ⟨by simpa using hcfg, fun hn => ?_, fun p rest' hr => hsample p ?_⟩
    · simpa using hkeep fun p hp => hn p rest (hp ▸ ha)
    · rw [ha] at hr
      exact (List.cons.inj hr).1

end Sys2Proof.Machine
end

section
/-! PROOFS of the family 10_state.md. First what each helper of `SequencerEnd` writes and leaves alone, then the frames of both kinds
of operation, then the two things a step can do to an operation in flight (`GoesOn`, `Completes`), on which the invariant rests. -/

namespace Sys2Proof.Machine

/-! ### The register groups, field by field -/

section
variable {s t : State}

@[simp] theorem sameSurroundings_iff : SameSurroundings s t ↔ t.cfg = s.cfg ∧ t.devAddr = s.devAddr ∧ t.opreg = s.opreg ∧
    t.hostOps = s.hostOps ∧ t.hostActs = s.hostActs ∧ t.readData = s.readData := Iff.rfl

@[simp] theorem sameCmdval_iff : SameCmdval s t ↔ t.cmdval = s.cmdval ∧ t.cmdvalV = s.cmdvalV := Iff.rfl

@[simp] theorem sameRdy_iff : SameRdy s t ↔ t.rdy = s.rdy ∧ t.rdyV = s.rdyV := Iff.rfl

@[simp] theorem sameErr_iff : SameErr s t ↔ t.errf = s.errf ∧ t.errc = s.errc ∧ t.errV = s.errV := Iff.rfl

@[simp] theorem sameChk_iff : SameChk s t ↔ t.chkCalc = s.chkCalc ∧ t.chkOk = s.chkOk ∧ t.chkV = s.chkV := Iff.rfl

@[simp] theorem samePkt_iff : SamePkt s t ↔ t.pkt = s.pkt ∧ t.pktV = s.pktV := Iff.rfl

@[simp] theorem samePar_iff : SamePar s t ↔ t.par = s.par ∧ t.parV = s.parV := Iff.rfl

@[simp] theorem sameTx_iff : SameTx s t ↔ t.txbuf = s.txbuf ∧ t.txV = s.txV := Iff.rfl

end

/-! ### What the ends of a sequencer step write, group by group -/

@[simp] theorem cleanupOf_control (i : Instr) (s : State) :
    (cleanupOf i s).busy = s.busy ∧ (cleanupOf i s).ustep = s.ustep ∧ (cleanupOf i s).phase = s.phase ∧
    (cleanupOf i s).pollcnt = s.pollcnt ∧ (cleanupOf i s).result = s.result ∧ (cleanupOf i s).errseen = s.errseen ∧
    (cleanupOf i s).tfcode = s.tfcode ∧ (cleanupOf i s).trace = s.trace ∧ (cleanupOf i s).dev = s.dev ∧
    (cleanupOf i s).devIx = s.devIx := by
  unfold cleanupOf; split <;> simp

@[simp] theorem cleanupOf_data (i : Instr) (s : State) :
    (cleanupOf i s).cmdval = s.cmdval ∧ (cleanupOf i s).cmdvalV = s.cmdvalV ∧ (cleanupOf i s).rdy = s.rdy ∧
    (cleanupOf i s).rdyV = s.rdyV ∧ (cleanupOf i s).chkCalc = s.chkCalc ∧ (cleanupOf i s).chkOk = s.chkOk ∧
    (cleanupOf i s).chkV = s.chkV ∧ (cleanupOf i s).pkt = s.pkt ∧ (cleanupOf i s).pktV = s.pktV ∧
    (cleanupOf i s).par = s.par ∧ (cleanupOf i s).parV = s.parV ∧ (cleanupOf i s).txbuf = s.txbuf ∧
    (cleanupOf i s).txV = s.txV := by
  unfold cleanupOf; split <;> simp

/-- FETCH alone empties the buffer as it ends with an error (R157). -/
@[simp] theorem cleanupOf_rxbuf (i : Instr) (s : State) :
    (cleanupOf i s).rxbuf = if isFetch i then [] else s.rxbuf := by
  unfold cleanupOf isFetch; split <;> simp

/-- GETERR alone clears `ERR_V` as it ends with an error (R162). -/
@[simp] theorem cleanupOf_errV (i : Instr) (s : State) :
    (cleanupOf i s).errV = if i = .geterr then false else s.errV := by
  unfold cleanupOf; split <;> simp_all

theorem cleanupOf_err {i : Instr} (h : i ≠ .geterr) (s : State) :
    (cleanupOf i s).errf = s.errf ∧ (cleanupOf i s).errc = s.errc := by
  unfold cleanupOf; split <;> simp_all

@[simp] theorem openedAt_control (i : Instr) (s : State) :
    (openedAt i s).busy = s.busy ∧ (openedAt i s).ustep = s.ustep ∧ (openedAt i s).phase = s.phase ∧
    (openedAt i s).abortPend = s.abortPend ∧ (openedAt i s).done = s.done ∧ (openedAt i s).result = s.result ∧
    (openedAt i s).errseen = s.errseen ∧ (openedAt i s).tfcode = s.tfcode ∧ (openedAt i s).trace = s.trace ∧
    (openedAt i s).dev = s.dev ∧ (openedAt i s).devIx = s.devIx := by
  unfold openedAt; split <;> simp

@[simp] theorem openedAt_data (i : Instr) (s : State) :
    (openedAt i s).cmdval = s.cmdval ∧ (openedAt i s).cmdvalV = s.cmdvalV ∧ (openedAt i s).rdy = s.rdy ∧
    (openedAt i s).rdyV = s.rdyV ∧ (openedAt i s).errf = s.errf ∧ (openedAt i s).errc = s.errc ∧
    (openedAt i s).errV = s.errV ∧ (openedAt i s).chkCalc = s.chkCalc ∧ (openedAt i s).chkOk = s.chkOk ∧
    (openedAt i s).chkV = s.chkV ∧ (openedAt i s).pkt = s.pkt ∧ (openedAt i s).pktV = s.pktV ∧
    (openedAt i s).par = s.par ∧ (openedAt i s).parV = s.parV ∧ (openedAt i s).rxbuf = s.rxbuf ∧
    (openedAt i s).txbuf = s.txbuf ∧ (openedAt i s).txV = s.txV := by
  unfold openedAt; split <;> simp

/-- The first write of a poll clears the count (R141). -/
theorem openedAt_pollcnt (i : Instr) (s : State) :
    (openedAt i s).pollcnt = if isPollItem i s.ustep.item ∧ s.ustep.sub = .opening then 0#16 else s.pollcnt := by
  unfold openedAt; split <;> simp

/-- An abort starts from the state itself, or from that of the opening write of POLL (log 15). -/
theorem abortedAt_cases (i : Instr) (s : State) : abortedAt i s = s ∨ (i = .poll ∧ abortedAt i s = openedAt i s) := by
  unfold abortedAt; split <;> simp_all

@[simp] theorem abortedAt_control (i : Instr) (s : State) :
    (abortedAt i s).tfcode = s.tfcode ∧ (abortedAt i s).trace = s.trace ∧ (abortedAt i s).dev = s.dev ∧
    (abortedAt i s).devIx = s.devIx := by
  rcases abortedAt_cases i s with h | ⟨-, h⟩ <;> simp [h]

@[simp] theorem abortedAt_data (i : Instr) (s : State) :
    (abortedAt i s).cmdval = s.cmdval ∧ (abortedAt i s).cmdvalV = s.cmdvalV ∧ (abortedAt i s).rdy = s.rdy ∧
    (abortedAt i s).rdyV = s.rdyV ∧ (abortedAt i s).errf = s.errf ∧ (abortedAt i s).errc = s.errc ∧
    (abortedAt i s).errV = s.errV ∧ (abortedAt i s).chkCalc = s.chkCalc ∧ (abortedAt i s).chkOk = s.chkOk ∧
    (abortedAt i s).chkV = s.chkV ∧ (abortedAt i s).pkt = s.pkt ∧ (abortedAt i s).pktV = s.pktV ∧
    (abortedAt i s).par = s.par ∧ (abortedAt i s).parV = s.parV ∧ (abortedAt i s).rxbuf = s.rxbuf ∧
    (abortedAt i s).txbuf = s.txbuf ∧ (abortedAt i s).txV = s.txV := by
  rcases abortedAt_cases i s with h | ⟨-, h⟩ <;> simp [h]

@[simp] theorem failedAt_data (i : Instr) (u : Ustep) (k : BusKind) (s : State) :
    (failedAt i u k s).pollcnt = s.pollcnt ∧ (failedAt i u k s).cmdval = s.cmdval ∧
    (failedAt i u k s).chkCalc = s.chkCalc ∧ (failedAt i u k s).chkOk = s.chkOk ∧ (failedAt i u k s).chkV = s.chkV ∧
    (failedAt i u k s).pkt = s.pkt ∧ (failedAt i u k s).pktV = s.pktV ∧ (failedAt i u k s).par = s.par ∧
    (failedAt i u k s).parV = s.parV ∧ (failedAt i u k s).txbuf = s.txbuf ∧ (failedAt i u k s).txV = s.txV := by
  unfold failedAt; split <;> split <;> simp

@[simp] theorem failedAt_rxbuf (i : Instr) (u : Ustep) (k : BusKind) (s : State) :
    (failedAt i u k s).rxbuf = if isFetch i then [] else s.rxbuf := by
  unfold failedAt; split <;> split <;> simp

@[simp] theorem failedAt_errV (i : Instr) (u : Ustep) (k : BusKind) (s : State) :
    (failedAt i u k s).errV = if i = .geterr then false else s.errV := by
  unfold failedAt; split <;> split <;> simp

theorem failedAt_err {i : Instr} (h : i ≠ .geterr) (u : Ustep) (k : BusKind) (s : State) :
    (failedAt i u k s).errf = s.errf ∧ (failedAt i u k s).errc = s.errc := by
  unfold failedAt; split <;> split <;> simp [cleanupOf_err h]

/-- Only a failed read clears `CMDVAL_V` (R135). -/
@[simp] theorem failedAt_cmdvalV (i : Instr) (u : Ustep) (k : BusKind) (s : State) :
    (failedAt i u k s).cmdvalV = if k = .r then false else s.cmdvalV := by
  unfold failedAt; split <;> split <;> simp

/-- Outside an attempt a failure leaves `RDY` and its flag alone (R138). -/
theorem failedAt_rdy {i : Instr} {u : Ustep} (h : inAttempt i u = false) (k : BusKind) (s : State) :
    (failedAt i u k s).rdy = s.rdy ∧ (failedAt i u k s).rdyV = s.rdyV := by
  unfold failedAt; split <;> simp [h]

@[simp] theorem writtenAt_control (i : Instr) (u : Ustep) (s : State) :
    (writtenAt i u s).busy = s.busy ∧ (writtenAt i u s).pollcnt = s.pollcnt ∧
    (writtenAt i u s).abortPend = s.abortPend ∧ (writtenAt i u s).done = s.done ∧
    (writtenAt i u s).result = s.result ∧ (writtenAt i u s).errseen = s.errseen ∧
    (writtenAt i u s).tfcode = s.tfcode := by
  unfold writtenAt
  split
  · simp
  · split <;> simp

@[simp] theorem writtenAt_data (i : Instr) (u : Ustep) (s : State) :
    (writtenAt i u s).cmdval = s.cmdval ∧ (writtenAt i u s).cmdvalV = s.cmdvalV ∧ (writtenAt i u s).rdy = s.rdy ∧
    (writtenAt i u s).rdyV = s.rdyV ∧ (writtenAt i u s).errf = s.errf ∧ (writtenAt i u s).errc = s.errc ∧
    (writtenAt i u s).errV = s.errV ∧ (writtenAt i u s).chkCalc = s.chkCalc ∧ (writtenAt i u s).chkOk = s.chkOk ∧
    (writtenAt i u s).chkV = s.chkV ∧ (writtenAt i u s).pkt = s.pkt ∧ (writtenAt i u s).pktV = s.pktV ∧
    (writtenAt i u s).par = s.par ∧ (writtenAt i u s).parV = s.parV ∧ (writtenAt i u s).rxbuf = s.rxbuf ∧
    (writtenAt i u s).txbuf = s.txbuf ∧ (writtenAt i u s).txV = s.txV := by
  unfold writtenAt
  split
  · simp
  · split <;> simp

@[simp] theorem byteReadAt_control (i : Instr) (v : Byte) (s : State) :
    (byteReadAt i v s).busy = false ∧ (byteReadAt i v s).phase = s.phase ∧ (byteReadAt i v s).pollcnt = s.pollcnt ∧
    (byteReadAt i v s).abortPend = false ∧ (byteReadAt i v s).done = true ∧ (byteReadAt i v s).result = .ok ∧
    (byteReadAt i v s).errseen = s.errseen ∧ (byteReadAt i v s).tfcode = s.tfcode := by
  unfold byteReadAt; split <;> simp

@[simp] theorem byteReadAt_data (i : Instr) (v : Byte) (s : State) :
    (byteReadAt i v s).chkCalc = s.chkCalc ∧ (byteReadAt i v s).chkOk = s.chkOk ∧ (byteReadAt i v s).chkV = s.chkV ∧
    (byteReadAt i v s).pkt = s.pkt ∧ (byteReadAt i v s).pktV = s.pktV ∧ (byteReadAt i v s).par = s.par ∧
    (byteReadAt i v s).parV = s.parV ∧ (byteReadAt i v s).rxbuf = s.rxbuf ∧ (byteReadAt i v s).txbuf = s.txbuf ∧
    (byteReadAt i v s).txV = s.txV := by
  unfold byteReadAt; split <;> simp

/-- Of the byte reads outside a poll only GETERR's writes the error registers (R162). -/
theorem byteReadAt_err {i : Instr} (h : i ≠ .geterr) (v : Byte) (s : State) :
    (byteReadAt i v s).errf = s.errf ∧ (byteReadAt i v s).errc = s.errc ∧ (byteReadAt i v s).errV = s.errV := by
  unfold byteReadAt; split <;> simp_all

/-- Of the byte reads outside a poll only ISRDY's writes `RDY` (R139). -/
theorem byteReadAt_rdy {i : Instr} (h : i ≠ .isrdy) (v : Byte) (s : State) :
    (byteReadAt i v s).rdy = s.rdy ∧ (byteReadAt i v s).rdyV = s.rdyV := by
  unfold byteReadAt; split <;> simp_all

@[simp] theorem readyAt_control (i : Instr) (u : Ustep) (s : State) :
    (readyAt i u s).errseen = s.errseen ∧ (readyAt i u s).tfcode = s.tfcode := by
  unfold readyAt; split <;> simp

@[simp] theorem readyAt_data (i : Instr) (u : Ustep) (s : State) :
    (readyAt i u s).errf = s.errf ∧ (readyAt i u s).errc = s.errc ∧ (readyAt i u s).errV = s.errV ∧
    (readyAt i u s).chkCalc = s.chkCalc ∧ (readyAt i u s).chkOk = s.chkOk ∧ (readyAt i u s).chkV = s.chkV ∧
    (readyAt i u s).pkt = s.pkt ∧ (readyAt i u s).pktV = s.pktV ∧ (readyAt i u s).par = s.par ∧
    (readyAt i u s).parV = s.parV ∧ (readyAt i u s).rxbuf = s.rxbuf ∧ (readyAt i u s).txbuf = s.txbuf ∧
    (readyAt i u s).txV = s.txV := by
  unfold readyAt; split <;> simp

/-! ### The frame of a sequencer step, one register group at a time -/

theorem busKindAt_of_pollItem {i : Instr} {u : Ustep} (h : isPollItem i u.item = true) :
    busKindAt i u = some (attemptKind u.sub) := by
  unfold isPollItem at h
  split at h <;> simp_all [busKindAt]
  omega

/-- Outside the polls there is no count to clear. -/
theorem openedAt_of_not_pollItem {i : Instr} {s : State} (h : isPollItem i s.ustep.item = false) : openedAt i s = s := by
  simp [openedAt, h]

namespace SequencerEnd

variable {i : Instr} {s t : State}

theorem sameData (h : SequencerEnd i s t) : SameChk s t ∧ SamePkt s t ∧ SamePar s t ∧ SameTx s t := by
  cases h <;> (subst t; simp)

theorem sameErr (h : SequencerEnd i s t) (hi : i ≠ .geterr) : SameErr s t := by
  cases h <;> (subst t; simp [hi, cleanupOf_err hi, failedAt_err hi, byteReadAt_err hi])

/-- What can stand in the buffer after a step: what stood there, nothing, or the device's block (R156). -/
theorem rxbuf_cases (h : SequencerEnd i s t) :
    t.rxbuf = s.rxbuf ∨ (isFetch i = true ∧ (t.rxbuf = [] ∨ ∃ a, t.rxbuf = answeredBlock a)) := by
  cases h with
  | aborted _ _ _ e | failed _ _ _ _ _ _ _ e | exhausted _ _ _ _ _ _ _ e => subst t; cases hf : isFetch i <;> simp [hf]
  | badBlock _ _ op _ _ _ _ e => obtain ⟨a, rfl⟩ := op; subst t; simp [isFetch]
  | goodBlock _ _ op _ _ _ _ e => obtain ⟨a, rfl⟩ := op; subst t; simp [isFetch]
  | illegal | waited | written | byteRead | ready | again => subst t; simp

/-- `CMDVAL` and its flag are written by byte reads alone (R36). -/
theorem sameCmdval (h : SequencerEnd i s t) (hk : busKindAt i s.ustep ≠ some .r) : SameCmdval s t := by
  have noRead : isPollItem i s.ustep.item = true → s.ustep.sub ≠ .read := fun hp hs =>
    hk (by simp [busKindAt_of_pollItem hp, hs, attemptKind])
  cases h with
  | failed _ _ _ k c kind _ e =>
    have : k ≠ .r := by rintro rfl; exact hk kind
    subst t; simp [this]
  | byteRead _ item _ op => rcases op with rfl | rfl | rfl <;> simp [busKindAt, item] at hk
  | ready _ poll sub | exhausted _ poll sub | again _ poll sub => exact absurd sub (noRead poll)
  | illegal | aborted | waited | written | badBlock | goodBlock => subst t; simp

/-- `RDY` and its flag are written by ISRDY and the polls alone (R37). -/
theorem sameRdy (h : SequencerEnd i s t) (hi : i ≠ .isrdy) (hp : isPollItem i s.ustep.item = false) : SameRdy s t := by
  have outside : inAttempt i s.ustep = false := by simp [inAttempt, hi, hp]
  cases h with
  | ready _ poll | exhausted _ poll | again _ poll => simp [hp] at poll
  | illegal | aborted | failed | waited | written | byteRead | badBlock | goodBlock =>
    subst t; simp [failedAt_rdy outside, byteReadAt_rdy hi]

/-- `POLLCNT` is written by the polls alone (R45). -/
theorem pollcnt_eq (h : SequencerEnd i s t) (hp : isPollItem i s.ustep.item = false) : t.pollcnt = s.pollcnt := by
  have opened := openedAt_of_not_pollItem hp
  have aborted : abortedAt i s = s := by rcases abortedAt_cases i s with e | ⟨-, e⟩ <;> simp [e, opened]
  cases h with
  | ready _ poll | exhausted _ poll | again _ poll => simp [hp] at poll
  | illegal | aborted | failed | waited | written | byteRead | badBlock | goodBlock =>
    subst t; simp [opened, aborted]

end SequencerEnd

/-! ### The operations without bus transactions -/

/-- What such an operation leaves of `s` before it completes: every group but its own destination (R170). -/
structure DataFrame (i : Instr) (s u : State) : Prop where
  surroundings : SameSurroundings s u
  control : u.ustep = s.ustep ∧ u.phase = s.phase ∧ u.pollcnt = s.pollcnt ∧ u.errseen = s.errseen ∧ u.tfcode = s.tfcode
  bus : u.trace = s.trace ∧ u.dev = s.dev ∧ u.devIx = s.devIx
  cmdval : SameCmdval s u
  rdy : SameRdy s u
  rxbuf : (i ≠ .clrbuf ∧ ∀ v, i ≠ .pushb v) → u.rxbuf = s.rxbuf
  pkt : i ≠ .decdata → SamePkt s u
  par : (i ≠ .decpar ∧ ∀ a x, i ≠ .setpar a x) → SamePar s u
  tx : i ≠ .encpar → SameTx s u
  chk : i ≠ .chksum → SameChk s u
  err : (i ≠ .errdec ∧ ∀ c, i ≠ .errmap c) → SameErr s u

/-- The two ends of an operation without bus transactions: `complete` or `raise`, its destination written before. -/
inductive DataEnd (i : Instr) (s t : State) : Prop
  | completed (u : State) (frame : DataFrame i s u) (eq : t = complete u)
  | raised (u : State) (frame : DataFrame i s u) (r : ResultCode) (error : r ≠ .ok) (own : r ≠ .transportError)
      (eq : t = raise r u)

/-- An operation without bus transactions answers a next state in every state, by one of the two ends. -/
theorem dataOp_ends {i : Instr} (hb : isBusOp i = false) (s : State) : ∃ t, exec i s = .next t ∧ DataEnd i s t := by
  cases i with
  | sendcmd | rdcreg | isrdy | poll | rstch | fetch | geterr => simp [isBusOp] at hb
  | clrbuf => exact ⟨_, rfl, .completed (clearRx s) (by constructor <;> simp) rfl⟩
  | errmap c => exact ⟨_, rfl, .completed (loadErr (c.setWidth 2) (errMap c) s) (by constructor <;> simp) rfl⟩
  | setpar a x =>
    simp only [exec, execSetpar]
    split
    · exact ⟨_, rfl, .raised s (by constructor <;> simp) _ (by simp) (by simp) rfl⟩
    · exact ⟨_, rfl, .completed (loadPar _ _ s) (by constructor <;> simp) rfl⟩
  | pushb v =>
    simp only [exec, execPushb]
    split
    · exact ⟨_, rfl, .raised s (by constructor <;> simp) _ (by simp) (by simp) rfl⟩
    · exact ⟨_, rfl, .completed (loadRx _ s) (by constructor <;> simp) rfl⟩
  | decdata =>
    simp only [exec, execDecdata]
    split
    · exact ⟨_, rfl, .raised (invalidatePkt s) (by constructor <;> simp) _ (by simp) (by simp) rfl⟩
    · exact ⟨_, rfl, .completed (loadPkt _ s) (by constructor <;> simp) rfl⟩
  | decpar =>
    simp only [exec, execDecpar]
    split
    · exact ⟨_, rfl, .raised (invalidatePar s) (by constructor <;> simp) _ (by simp) (by simp) rfl⟩
    · exact ⟨_, rfl, .completed (loadPar _ _ s) (by constructor <;> simp) rfl⟩
  | encpar =>
    simp only [exec, execEncpar]
    split
    · exact ⟨_, rfl, .completed (loadTx _ s) (by constructor <;> simp) rfl⟩
    · exact ⟨_, rfl, .raised (invalidateTx s) (by constructor <;> simp) _ (by simp) (by simp) rfl⟩
  | chksum =>
    simp only [exec, execChksum]
    split
    · exact ⟨_, rfl, .raised (invalidateChk s) (by constructor <;> simp) _ (by simp) (by simp) rfl⟩
    · exact ⟨_, rfl, .completed (loadChk _ _ s) (by constructor <;> simp) rfl⟩
  | errdec =>
    simp only [exec, execErrdec]
    split
    · exact ⟨_, rfl, .completed (loadErr _ _ s) (by constructor <;> simp) rfl⟩
    · exact ⟨_, rfl, .raised (invalidateErr s) (by constructor <;> simp) _ (by simp) (by simp) rfl⟩

theorem dataEnd_of_exec {i : Instr} {s t : State} (hb : isBusOp i = false) (h : exec i s = .next t) : DataEnd i s t := by
  obtain ⟨u, hu, hend⟩ := dataOp_ends hb s
  cases hu.symm.trans h
  exact hend

/-- What can stand in the buffer after it: what stood there, nothing, or one byte more where there was room (R171, R172). -/
theorem dataOp_rxbuf_cases {i : Instr} {s t : State} (hb : isBusOp i = false) (h : exec i s = .next t) :
    t.rxbuf = s.rxbuf ∨ t.rxbuf = [] ∨ (s.rxbuf.length < Config.rxbufCap ∧ ∃ v, t.rxbuf = s.rxbuf ++ [v]) := by
  by_cases hc : i = .clrbuf
  · subst hc; cases h; simp
  by_cases hp : ∃ v, i = .pushb v
  · obtain ⟨v, rfl⟩ := hp
    simp only [exec, execPushb] at h
    split at h <;> cases h
    · simp
    · simp; omega
  have other : i ≠ .clrbuf ∧ ∀ v, i ≠ .pushb v := ⟨hc, fun v hv => hp ⟨v, hv⟩⟩
  cases dataEnd_of_exec hb h with
  | completed u frame eq => subst t; simp [frame.rxbuf other]
  | raised u frame r _ _ eq => subst t; simp [frame.rxbuf other]

/-! ### `ERRC` belongs to `ERRF` -/

/-- `ERRC`, where it holds a value, is `unknown` or the error of `ERRF` (R209, R212). -/
def ErrorPaired (s : State) : Prop := s.errV = true → s.errc = .unknown ∨ s.errc = errMap (s.errf.setWidth 8)

theorem ErrorPaired.of_sameErr {s t : State} (h : ErrorPaired s) (hs : SameErr s t) : ErrorPaired t := by
  obtain ⟨hf, hc, hv⟩ := hs
  simpa [ErrorPaired, hf, hc, hv] using h

theorem errMap_of_four_le {c : Byte} (h : 4 ≤ c.toNat) : errMap c = .unknown := by
  unfold errMap; split <;> simp_all

theorem setWidth_two_of_lt_four {c : Byte} (h : c.toNat < 4) : (c.setWidth 2).setWidth 8 = c :=
  BitVec.eq_of_toNat_eq (by simp; omega)

theorem dataOp_errorPaired {i : Instr} {s t : State} (hs : ErrorPaired s) (hb : isBusOp i = false)
    (h : exec i s = .next t) : ErrorPaired t := by
  by_cases hd : i = .errdec
  · subst hd
    simp only [exec, execErrdec] at h
    split at h <;> cases h <;> simp [ErrorPaired, errCodeOf]
  by_cases hm : ∃ c, i = .errmap c
  · obtain ⟨c, rfl⟩ := hm
    cases h
    rcases Nat.lt_or_ge c.toNat 4 with hc | hc
    · simp [ErrorPaired, setWidth_two_of_lt_four hc]
    · simp [ErrorPaired, errMap_of_four_le hc]
  have other : i ≠ .errdec ∧ ∀ c, i ≠ .errmap c := ⟨hd, fun c hc => hm ⟨c, hc⟩⟩
  cases dataEnd_of_exec hb h with
  | completed u frame eq => subst t; exact hs.of_sameErr (by simpa using frame.err other)
  | raised u frame r _ _ eq => subst t; exact hs.of_sameErr (by simpa using frame.err other)

theorem SequencerEnd.errorPaired {i : Instr} {s t : State} (h : SequencerEnd i s t) (hs : ErrorPaired s) :
    ErrorPaired t := by
  by_cases hi : i = .geterr
  · subst hi
    cases h with
    | aborted | failed | exhausted => subst t; simp [ErrorPaired]
    | byteRead => subst t; simp [ErrorPaired, byteReadAt, errCodeOf]
    | illegal | waited | written | ready | again | badBlock | goodBlock => subst t; exact hs.of_sameErr (by simp)
  · exact hs.of_sameErr (h.sameErr hi)

/-! ### An operation in flight goes on or completes -/

/-- The operation stays in flight, and no register of its control or its outcome is written. -/
structure GoesOn (s t : State) : Prop where
  busy : t.busy = s.busy
  abortPend : t.abortPend = s.abortPend
  done : t.done = s.done
  result : t.result = s.result
  errseen : t.errseen = s.errseen
  tfcode : t.tfcode = s.tfcode

/-- The operation ends: with OK, or with an error, which sets `ERRSEEN` and leaves `PHASE` `IDLE` (R225, R226). -/
structure Completes (s t : State) : Prop where
  busy : t.busy = false
  abortPend : t.abortPend = false
  done : t.done = true
  outcome : (t.result = .ok ∧ t.errseen = s.errseen) ∨ (t.result ≠ .ok ∧ t.errseen = true ∧ t.phase = .idle)
  tfcode : t.result ≠ .transportError → t.tfcode = s.tfcode

theorem Completes.errseen_of_error {s t : State} (h : Completes s t) (hr : t.result ≠ .ok) : t.errseen = true := by
  rcases h.outcome with ⟨hok, -⟩ | ⟨-, he, -⟩
  · exact absurd hok hr
  · exact he

theorem completes_complete {s u : State} (he : u.errseen = s.errseen) (hf : u.tfcode = s.tfcode) :
    Completes s (complete u) :=
  ⟨rfl, rfl, rfl, .inl ⟨rfl, he⟩, fun _ => hf⟩

theorem completes_raise {s u : State} {r : ResultCode} (hr : r ≠ .ok) (hf : u.tfcode = s.tfcode) :
    Completes s (raise r u) :=
  ⟨rfl, rfl, rfl, .inr ⟨hr, rfl, rfl⟩, fun _ => hf⟩

theorem completes_raiseTransport (c : Byte) (s u : State) : Completes s (raiseTransport c u) :=
  ⟨rfl, rfl, rfl, .inr ⟨by simp, rfl, rfl⟩, fun h => absurd rfl h⟩

/-- A poll that saw the ready bit goes on with FETCH and completes RSTCH and POLL (R142, R150, R156). -/
theorem readyAt_cases {i : Instr} {u : Ustep} (hp : isPollItem i u.item = true) (s : State) :
    (isFetch i = true ∧ readyAt i u s = gotoItem (u.item + 1) (setPhase (phaseAt i (u.item + 1)) s)) ∨
    ((∃ c, i = .rstch c) ∧ u.item = 2 ∧ readyAt i u s = complete (setPhase .readyData s)) ∨
    (i = .poll ∧ readyAt i u s = complete s) := by
  unfold isPollItem at hp
  split at hp <;> simp_all [readyAt, isFetch]

theorem SequencerEnd.goesOn_or_completes {i : Instr} {s t : State} (h : SequencerEnd i s t) :
    GoesOn s t ∨ Completes s t := by
  cases h with
  | illegal | aborted | exhausted | badBlock => subst t; exact .inr (completes_raise (by simp) (by simp))
  | failed => subst t; exact .inr (completes_raiseTransport _ _ _)
  | waited | goodBlock => subst t; exact .inr (completes_complete (by simp) (by simp))
  | byteRead => subst t; exact .inr (by constructor <;> simp)
  | written | again => subst t; exact .inl (by constructor <;> simp)
  | ready _ poll _ _ _ _ e =>
    rcases readyAt_cases poll _ with ⟨-, hr⟩ | ⟨-, -, hr⟩ | ⟨-, hr⟩ <;> rw [e, hr]
    · exact .inl (by constructor <;> simp)
    · exact .inr (completes_complete (by simp) (by simp))
    · exact .inr (completes_complete (by simp) (by simp))

theorem DataEnd.completes {i : Instr} {s t : State} (h : DataEnd i s t) : Completes s t := by
  cases h with
  | completed u frame eq =>
    obtain ⟨-, -, -, he, hf⟩ := frame.control
    exact eq ▸ completes_complete he hf
  | raised u frame r error _ eq =>
    obtain ⟨-, -, -, -, hf⟩ := frame.control
    exact eq ▸ completes_raise error hf

/-- A step of an operation takes it on or ends it. -/
theorem exec_goesOn_or_completes {i : Instr} {s t : State} (h : exec i s = .next t) : GoesOn s t ∨ Completes s t := by
  cases hb : isBusOp i with
  | true => exact (sequencer_ends i s t hb h).goesOn_or_completes
  | false => exact .inr (dataEnd_of_exec hb h).completes

/-! ### The operation in flight and its `PHASE` -/

/-- A command write outside the polls is never the last item of its template (R131). -/
theorem succ_lt_itemCount_of_write {i : Instr} {u : Ustep} (hk : busKindAt i u = some .w)
    (hp : isPollItem i u.item = false) : u.item + 1 < itemCount i := by
  cases i <;> simp_all [busKindAt, isPollItem, itemCount]
  all_goals omega

/-- Nor is a poll of FETCH (R156). -/
theorem succ_lt_itemCount_of_fetchPoll {i : Instr} {n : Nat} (hf : isFetch i = true) (hp : isPollItem i n = true) :
    n + 1 < itemCount i := by
  cases i <;> simp_all [isFetch, isPollItem, itemCount]
  omega

theorem writtenAt_of_pollItem {i : Instr} {u : Ustep} (hp : isPollItem i u.item = true) (s : State) :
    writtenAt i u s = gotoSub u.item .read s := by
  simp [writtenAt, hp]

/-- A command write outside the polls leads to the next item, at the `PHASE` of that item (R131, R165). -/
theorem writtenAt_of_not_pollItem {i : Instr} {u : Ustep} (hp : isPollItem i u.item = false) {s : State}
    (hs : s.phase = phaseAt i u.item) :
    (writtenAt i u s).ustep = ⟨u.item + 1, .opening⟩ ∧ (writtenAt i u s).phase = phaseAt i (u.item + 1) := by
  unfold writtenAt
  cases i <;> simp_all [phaseAt]

/-- An operation begins a new item of its template with nothing counted yet, so `FlightOk` asks for no attempts left. -/
theorem flightOk_of_opening {i : Instr} {s : State} {n : Nat} (hu : s.ustep = ⟨n, .opening⟩) (hn : n < itemCount i)
    (hp : s.phase = phaseAt i n) (hb : isFetch i = true → s.rxbuf = []) : FlightOk i s :=
  ⟨by simpa [hu] using hn, by simpa [hu] using hp, fun _ ho => absurd (by simp [hu]) ho, hb⟩

/-- An attempt that leaves a bounded poll going leaves it attempts (R140). -/
theorem bumpCount_lt_of_not_exhausted {m c : Half} (hm : m ≠ 0#16) (hc : c.toNat < m.toNat)
    (hx : pollExhausted m (bumpCount c) = false) : (bumpCount c).toNat < m.toNat := by
  have hb := bumpCount_toNat c (by omega)
  have hne : bumpCount c ≠ m := fun he => by simp [(pollExhausted_iff m _).2 ⟨hm, he⟩] at hx
  have : (bumpCount c).toNat ≠ m.toNat := fun he => hne (BitVec.eq_of_toNat_eq he)
  omega

namespace SequencerEnd

variable {i : Instr} {s t : State}

/-- What goes on is at a position of its template again, with the `PHASE` and the attempts of that position. -/
theorem flightOk (h : SequencerEnd i s t) (hf : FlightOk i s) (hb : t.busy = true) : FlightOk i t := by
  cases h with
  | illegal | aborted | failed | waited | byteRead | exhausted | badBlock | goodBlock => subst t; simp at hb
  | written _ item _ kind _ k e =>
    cases hp : isPollItem i s.ustep.item with
    | true =>
      rw [e, writtenAt_of_pollItem hp]
      refine ⟨by simpa using item, by simpa using hf.phase, fun _ _ hm => ?_, by simpa using hf.buffer⟩
      by_cases ho : s.ustep.sub = .opening
      · simpa [openedAt_pollcnt, hp, ho] using BitVec.toNat_pos_of_ne_zero hm
      · simpa [openedAt_pollcnt, hp, ho] using hf.budget hp ho (by simpa using hm)
    | false =>
      obtain ⟨hu, hph⟩ := writtenAt_of_not_pollItem (s := emit (.regWrite s.devAddr s.cfg.cmdReg (commandByte s.cfg k))
        (takeAnswer (openedAt i s))) hp (by simpa using hf.phase)
      rw [e]
      exact flightOk_of_opening hu (succ_lt_itemCount_of_write kind hp) hph (by simpa using hf.buffer)
  | ready _ poll _ _ _ _ e =>
    rcases readyAt_cases poll _ with ⟨hfetch, hr⟩ | ⟨-, -, hr⟩ | ⟨-, hr⟩ <;> rw [hr] at e
    · rw [e]
      exact flightOk_of_opening (by simp) (succ_lt_itemCount_of_fetchPoll hfetch poll) (by simp) (by simpa using hf.buffer)
    · simp [e] at hb
    · simp [e] at hb
  | again _ poll sub _ _ _ bound e =>
    subst t
    refine ⟨by simpa using hf.item, by simpa using hf.phase, fun _ _ hm => ?_, by simpa using hf.buffer⟩
    simp only [gotoSub_fields, countAttempt_fields, loadRdy_fields, loadCmdval_fields, emit_fields, takeAnswer_fields] at hm ⊢
    exact bumpCount_lt_of_not_exhausted hm (hf.budget poll (by simp [sub]) hm) bound

/-- Where a step leaves `PHASE`: as it was, `IDLE`, `READY_DATA` at the end of RSTCH, or that of the next item (R165). -/
theorem phase_cases (h : SequencerEnd i s t) (hf : FlightOk i s) :
    t.phase = s.phase ∨ t.phase = .idle ∨ ((∃ c, i = .rstch c) ∧ s.ustep.item = 2 ∧ t.phase = .readyData) ∨
    (s.ustep.item + 1 < itemCount i ∧ t.phase = phaseAt i (s.ustep.item + 1)) := by
  cases h with
  | illegal | aborted | failed | exhausted | badBlock => subst t; simp
  | waited | byteRead | again | goodBlock => subst t; simp
  | written _ _ _ kind _ k e =>
    cases hp : isPollItem i s.ustep.item with
    | true => simp [e, writtenAt_of_pollItem hp]
    | false =>
      obtain ⟨-, hph⟩ := writtenAt_of_not_pollItem (s := emit (.regWrite s.devAddr s.cfg.cmdReg (commandByte s.cfg k))
        (takeAnswer (openedAt i s))) hp (by simpa using hf.phase)
      exact .inr (.inr (.inr ⟨succ_lt_itemCount_of_write kind hp, e ▸ hph⟩))
  | ready _ poll _ _ _ _ e =>
    rcases readyAt_cases poll _ with ⟨hfetch, hr⟩ | ⟨hi, h2, hr⟩ | ⟨-, hr⟩ <;> rw [hr] at e
    · exact .inr (.inr (.inr ⟨succ_lt_itemCount_of_fetchPoll hfetch poll, by simp [e]⟩))
    · exact .inr (.inr (.inl ⟨hi, h2, by simp [e]⟩))
    · simp [e]

/-- Where a completion leaves `PHASE`: `IDLE`, or `READY_DATA` after a good RSTCH or FETCH (R35). -/
theorem phase_at_rest (h : SequencerEnd i s t) (hf : FlightOk i s) (hs : s.busy = true) (ht : t.busy = false) :
    t.phase = .idle ∨ (t.phase = .readyData ∧ t.result = .ok) := by
  have hph := hf.phase
  cases h with
  | illegal | aborted | failed | exhausted | badBlock => subst t; simp
  | waited _ _ op _ e => obtain ⟨a, rfl⟩ := op; subst t; exact .inl (by simp [hph, phaseAt])
  | byteRead _ _ _ op _ e => rcases op with rfl | rfl | rfl <;> subst t <;> exact .inl (by simp [hph, phaseAt])
  | written | again => subst t; simp [hs] at ht
  | goodBlock _ _ op item _ _ _ e => obtain ⟨a, rfl⟩ := op; subst t; exact .inr (by simp [hph, item, phaseAt])
  | ready _ poll _ _ _ _ e =>
    rcases readyAt_cases poll _ with ⟨-, hr⟩ | ⟨-, -, hr⟩ | ⟨hi, hr⟩ <;> rw [hr] at e <;> subst t
    · simp [hs] at ht
    · exact .inr (by simp)
    · exact .inl (by simp [hph, hi, phaseAt])

end SequencerEnd

/-- An operation without bus transactions keeps `PHASE` as it completes with OK, and leaves `IDLE` with an error (R226). -/
theorem DataEnd.phase_cases {i : Instr} {s t : State} (h : DataEnd i s t) :
    t.phase = s.phase ∨ (t.phase = .idle ∧ t.result ≠ .ok) := by
  cases h with
  | completed u frame eq =>
    obtain ⟨-, hp, -⟩ := frame.control
    exact .inl (by simp [eq, hp])
  | raised u frame r error _ eq => exact .inr (by simp [eq, error])

theorem phaseAt_of_dataOp {i : Instr} (hb : isBusOp i = false) (n : Nat) : phaseAt i n = .idle := by
  cases i <;> simp_all [isBusOp, phaseAt]

/-- The edges of `PHASE` (R165). -/
def PhaseEdge (i : Instr) (p q : Phase) : Prop :=
  q = p ∨ q = .idle ∨
  ((∃ c, i = .rstch c) ∧
    ((p = .idle ∧ q = .cmdPending) ∨ (p = .cmdPending ∧ q = .opPending) ∨ (p = .opPending ∧ q = .readyData))) ∨
  ((∃ a n, i = .fetch a n) ∧
    ((p = .idle ∧ q = .cmdPending) ∨ (p = .cmdPending ∧ q = .ready) ∨ (p = .ready ∧ q = .opPending) ∨
      (p = .opPending ∧ q = .readyData)))

/-- From one item of a template to the next, `PHASE` moves along an edge (R165). -/
theorem phaseAt_succ_edge {i : Instr} {n : Nat} (h : n + 1 < itemCount i) : PhaseEdge i (phaseAt i n) (phaseAt i (n + 1)) := by
  cases i with
  | rstch c =>
    have : n = 0 ∨ n = 1 := by simp [itemCount] at h; omega
    rcases this with rfl | rfl <;> simp [PhaseEdge, phaseAt]
  | fetch a k =>
    have : n = 0 ∨ n = 1 ∨ n = 2 ∨ n = 3 := by simp [itemCount] at h; omega
    rcases this with rfl | rfl | rfl | rfl <;> simp [PhaseEdge, phaseAt]
  | _ => exact .inl rfl

/-! ### The invariant through a step of the operation in flight -/

/-- After a completion the invariant asks for the buffer's capacity, a paired `ERRC`, and `PHASE` at rest. -/
theorem Completes.inv {s t : State} (h : Completes s t) (capacity : t.rxbuf.length ≤ Config.rxbufCap)
    (paired : ErrorPaired t) (rest : t.phase = .idle ∨ (t.phase = .readyData ∧ t.result = .ok)) : t.Inv where
  capacity := capacity
  noAbortWhenIdle _ := h.abortPend
  idlePhase _ := rest
  sticky := h.errseen_of_error
  pulse _ := h.busy
  errorPair := paired
  flight := by simp [h.busy]

section
variable {i : Instr} {s t : State}

theorem exec_flightOk (h : exec i s = .next t) (hf : FlightOk i s) (hb : t.busy = true) : FlightOk i t := by
  cases hop : isBusOp i with
  | true => exact (sequencer_ends i s t hop h).flightOk hf hb
  | false => simp [(dataEnd_of_exec hop h).completes.busy] at hb

theorem exec_phase_at_rest (h : exec i s = .next t) (hf : FlightOk i s) (hs : s.busy = true) (ht : t.busy = false) :
    t.phase = .idle ∨ (t.phase = .readyData ∧ t.result = .ok) := by
  cases hop : isBusOp i with
  | true => exact (sequencer_ends i s t hop h).phase_at_rest hf hs ht
  | false =>
    have idle : s.phase = .idle := hf.phase.trans (phaseAt_of_dataOp hop _)
    rcases (dataEnd_of_exec hop h).phase_cases with hp | ⟨hp, -⟩
    · exact .inl (hp.trans idle)
    · exact .inl hp

theorem exec_errorPaired (h : exec i s = .next t) (hs : ErrorPaired s) : ErrorPaired t := by
  cases hop : isBusOp i with
  | true => exact (sequencer_ends i s t hop h).errorPaired hs
  | false => exact dataOp_errorPaired hs hop h

theorem exec_capacity (h : exec i s = .next t) (hs : s.rxbuf.length ≤ Config.rxbufCap) :
    t.rxbuf.length ≤ Config.rxbufCap := by
  cases hop : isBusOp i with
  | true =>
    rcases (sequencer_ends i s t hop h).rxbuf_cases with he | ⟨-, he | ⟨a, he⟩⟩ <;> rw [he]
    · exact hs
    · exact Nat.zero_le _
    · exact answeredBlock_length_le a
  | false =>
    rcases dataOp_rxbuf_cases hop h with he | he | ⟨room, v, he⟩ <;> rw [he]
    · exact hs
    · exact Nat.zero_le _
    · simpa using room

/-- A step of a legal operation at a position of its own keeps the invariant. -/
theorem exec_keeps_inv (h : exec i s = .next t) (hs : s.Inv) (hb : s.busy = true) (hd : decodeLegal s.opreg = .ok i)
    (hf : FlightOk i s) : t.Inv := by
  have capacity := exec_capacity h hs.capacity
  have paired := exec_errorPaired h hs.errorPair
  rcases exec_goesOn_or_completes h with hg | hc
  · obtain ⟨-, -, hopreg, -⟩ := exec_sameSurroundings h
    have busy : t.busy = true := hg.busy.trans hb
    exact {
      capacity := capacity
      noAbortWhenIdle := by simp [busy]
      idlePhase := by simp [busy]
      sticky := by simpa [hg.result, hg.errseen] using hs.sticky
      pulse := by simpa [hg.done, hg.busy] using hs.pulse
      errorPair := paired
      flight := fun _ => ⟨i, hopreg ▸ hd, exec_flightOk h hf busy⟩ }
  · exact hc.inv capacity paired (exec_phase_at_rest h hf hb hc.busy)

end

/-! ### The invariant through acceptance, a step of the block and the host's actions -/

theorem decode_of_decodeLegal {w : Word} {i : Instr} (h : decodeLegal w = .ok i) : decode w = .ok i := by
  unfold decodeLegal at h
  split at h
  · split at h <;> simp_all
  · simp at h

/-- What an operation writes at its acceptance besides the latched word: FETCH empties the buffer (R156). -/
theorem onAccept_cases (i : Instr) (s : State) :
    (isFetch i = true ∧ onAccept i s = clearRx s) ∨ (isFetch i = false ∧ onAccept i s = s) := by
  cases i <;> simp [isFetch, onAccept]

/-- A legal word goes in flight; an illegal one completes with IllegalOperation (R224, R229). -/
theorem accept_cases (w : Word) (s : State) :
    (∃ i, decodeLegal w = .ok i ∧ accept w s = onAccept i (latch w s)) ∨
    (∃ r, decodeLegal w = .error r ∧ accept w s = raise .illegalOperation (latch w s)) := by
  cases h : decodeLegal w <;> simp [accept, h]

/-- An operation just latched, with an empty buffer under FETCH, meets the invariant. -/
theorem latch_loadRx_inv {s : State} (h : s.Inv) (hd : s.done = false) {w : Word} {i : Instr} (hw : decodeLegal w = .ok i)
    {B : List Byte} (hB : B.length ≤ Config.rxbufCap) (hf : isFetch i = true → B = []) : (loadRx B (latch w s)).Inv where
  capacity := hB
  noAbortWhenIdle _ := rfl
  idlePhase _ := .inl rfl
  sticky := h.sticky
  pulse := by simp [hd]
  errorPair := h.errorPair
  flight _ := by
    have count : 0 < itemCount i := by cases i <;> simp [itemCount]
    have idle : Phase.idle = phaseAt i 0 := by cases i <;> rfl
    exact ⟨i, hw, flightOk_of_opening rfl count idle hf⟩

theorem accept_keeps_inv {s : State} (h : s.Inv) (hd : s.done = false) (w : Word) : (accept w s).Inv := by
  rcases accept_cases w s with ⟨i, hw, e⟩ | ⟨r, -, e⟩ <;> rw [e]
  · rcases onAccept_cases i (latch w s) with ⟨-, e⟩ | ⟨hf, e⟩ <;> rw [e]
    · exact latch_loadRx_inv h hd hw (Nat.zero_le _) fun _ => rfl
    · exact latch_loadRx_inv h hd hw h.capacity (by simp [hf])
  · exact (completes_raise (s := s) (by simp) (by simp)).inv h.capacity h.errorPair (.inl rfl)

theorem clearDone_setHostActs_inv {s : State} (h : s.Inv) (acts : List HostAct) : (clearDone (setHostActs acts s)).Inv :=
  { h with
    pulse := by simp
    flight := fun hb => (h.flight hb).imp fun _ ⟨hd, hf⟩ => ⟨hd, { hf with }⟩ }

theorem setHostOps_inv {s : State} (h : s.Inv) (ws : List Word) : (setHostOps ws s).Inv :=
  { h with flight := fun hb => (h.flight hb).imp fun _ ⟨hd, hf⟩ => ⟨hd, { hf with }⟩ }

theorem answerRead_inv {s : State} (h : s.Inv) (v : Word) (used : Nat) : (answerRead v used s).Inv :=
  { h with flight := fun hb => (h.flight hb).imp fun _ ⟨hd, hf⟩ => ⟨hd, { hf with }⟩ }

/-- An abort request is latched only while `BUSY` is 1 (R46). -/
theorem raiseAbort_keeps_inv {s : State} (h : s.Inv) : (raiseAbort s).Inv := by
  unfold raiseAbort
  split
  next hb =>
    exact { h with
      noAbortWhenIdle := by simp [hb]
      flight := fun hb => (h.flight hb).imp fun _ ⟨hd, hf⟩ => ⟨hd, { hf with }⟩ }
  next => exact h

theorem reset_inv : State.reset.Inv where
  capacity := Nat.zero_le _
  noAbortWhenIdle _ := rfl
  idlePhase _ := .inl rfl
  sticky h := absurd rfl h
  pulse _ := rfl
  errorPair h := by cases h
  flight h := by cases h

theorem resetBlock_inv (pins : BusAddr) (s : State) : (resetBlock pins s).Inv :=
  { reset_inv with flight := fun h => by cases h }

theorem blockStep_keeps_inv {s t : State} (h : s.Inv) (hd : s.done = false) (hstep : blockStep s = .next t) : t.Inv := by
  rcases blockStep_cases hstep with ⟨i, hb, hdec, he⟩ | ⟨r, hb, hdec, -⟩ | ⟨-, rfl⟩
  · obtain ⟨j, hlegal, hf⟩ := h.flight hb
    cases hdec.symm.trans (decode_of_decodeLegal hlegal)
    exact exec_keeps_inv he h hb hlegal hf
  · obtain ⟨j, hlegal, -⟩ := h.flight hb
    cases hdec.symm.trans (decode_of_decodeLegal hlegal)
  · unfold acceptNext
    split
    next => exact h
    next w rest _ => exact accept_keeps_inv (setHostOps_inv h rest) hd w

theorem step_of_hostAct {s : State} {act : HostAct} {rest : List HostAct} (h : s.hostActs = act :: rest) (hp : act ≠ .pass) :
    step s = .next (hostStep act (clearDone (setHostActs rest s))) := by
  cases act <;> simp_all [step]

theorem hostRead_eq (n : BitVec 12) (s : State) : ∃ v k, hostRead n s = answerRead v k s := by
  unfold hostRead
  split <;> exact ⟨_, _, rfl⟩

theorem hostStep_keeps_inv {s : State} (h : s.Inv) (act : HostAct) : (hostStep act s).Inv := by
  cases act with
  | pass => exact h
  | abort => exact raiseAbort_keeps_inv h
  | read n =>
    obtain ⟨v, used, e⟩ := hostRead_eq n s
    rw [hostStep, e]
    exact answerRead_inv h v used
  | reset pins => exact resetBlock_inv pins s

/-! ### Progress at a position of the template -/

theorem rdcregStep_next {s : State} (h : s.ustep.item < 2) (onAbort onFail : State → State)
    (onByte : Byte → State → State) : ∃ t, rdcregStep onAbort onFail onByte s = .next t := by
  unfold rdcregStep
  interval_cases s.ustep.item <;> exact ⟨_, rfl⟩

/-- At a position of its template an operation of the sequencer has a next state (R131). -/
theorem busOp_next {i : Instr} {s : State} (hb : isBusOp i = true) (h : s.ustep.item < itemCount i) :
    ∃ t, exec i s = .next t := by
  cases i with
  | rdcreg | isrdy | geterr => exact rdcregStep_next h _ _ _
  | sendcmd a | rstch a | fetch a n =>
    simp only [exec, execSendcmd, execRstch, execFetch]
    split
    · exact ⟨_, rfl⟩
    · simp only [itemCount] at h
      interval_cases s.ustep.item <;> exact ⟨_, rfl⟩
  | poll =>
    simp only [exec, execPoll]
    simp only [itemCount] at h
    interval_cases s.ustep.item
    exact ⟨_, rfl⟩
  | clrbuf | pushb | setpar | decdata | decpar | encpar | chksum | errdec | errmap => simp [isBusOp] at hb

/-! ### Abort -/

/-- A sequencer operation with an abort pending ends before it does anything else (R232). -/
theorem exec_of_abortPend {i : Instr} {s : State} (wf : i.wellFormed = true) (hb : isBusOp i = true)
    (hn : s.ustep.item < itemCount i) (ha : s.abortPend = true) :
    exec i s = .next (raise .operationTimedOut (cleanupOf i (abortedAt i s))) := by
  obtain ⟨t, h⟩ := busOp_next hb hn
  cases sequencer_ends i s t hb h with
  | aborted _ _ _ eq => rw [h, eq]
  | illegal wf' => simp [wf] at wf'
  | failed _ _ abort | waited _ abort | written _ _ abort | byteRead _ _ abort | ready _ _ _ abort
  | exhausted _ _ _ abort | again _ _ _ abort | badBlock _ _ _ _ abort | goodBlock _ _ _ _ abort =>
    simp [ha] at abort

/-- Only the abort of a POLL that never began writes the count (R142; log 15). -/
theorem abortedAt_pollcnt {i : Instr} {s : State} (hn : s.ustep.item < itemCount i) :
    (abortedAt i s).pollcnt = if i = .poll ∧ s.ustep.sub = .opening then 0#16 else s.pollcnt := by
  unfold abortedAt
  split
  next hi =>
    subst hi
    have : s.ustep.item = 0 := by simpa [itemCount] using hn
    simp [openedAt_pollcnt, isPollItem, this]
  next hi => simp [hi]

/-- Both ends of an operation without bus transactions clear the request, and nothing before them looks at it (R232). -/
theorem dataOp_ignores_abortPend {i : Instr} (hb : isBusOp i = false) (s : State) (b : Bool) :
    exec i { s with abortPend := b } = exec i s := by
  cases i with
  | sendcmd | rdcreg | isrdy | poll | rstch | fetch | geterr => simp [isBusOp] at hb
  | clrbuf | pushb | setpar | decdata | decpar | encpar | chksum | errdec | errmap => rfl

/-! ### Acceptance, the host, and `ERRSEEN` -/

theorem Completes.errseen_of {s t : State} (h : Completes s t) (hs : s.errseen = true) : t.errseen = true := by
  rcases h.outcome with ⟨-, he⟩ | ⟨-, he, -⟩
  · exact he.trans hs
  · exact he

/-- A step of an idle block waits, puts a legal word in flight, or completes an illegal one (R220, R224, R229). -/
theorem acceptNext_cases (s : State) :
    (s.hostOps = [] ∧ acceptNext s = s) ∨
    (∃ w rest i, s.hostOps = w :: rest ∧ decodeLegal w = .ok i ∧ acceptNext s = onAccept i (latch w (setHostOps rest s))) ∨
    (∃ w rest, s.hostOps = w :: rest ∧ acceptNext s = raise .illegalOperation (latch w (setHostOps rest s))) := by
  unfold acceptNext
  cases s.hostOps with
  | nil => simp
  | cons w rest =>
    rcases accept_cases w (setHostOps rest s) with ⟨i, hw, e⟩ | ⟨r, -, e⟩
    · exact .inr (.inl ⟨w, rest, i, rfl, hw, e⟩)
    · exact .inr (.inr ⟨w, rest, rfl, e⟩)

theorem acceptNext_of_presented {s : State} {w : Word} {rest : List Word} (h : s.hostOps = w :: rest) :
    acceptNext s = accept w (setHostOps rest s) := by
  simp [acceptNext, h]

theorem blockStep_of_idle {s : State} (h : s.busy = false) : blockStep s = .next (acceptNext s) := by
  simp [blockStep, h]

/-- Latching a word forgets what `PHASE` was (R35, R224). -/
theorem accept_setPhase (w : Word) (p : Phase) (s : State) : accept w (setPhase p s) = accept w s := rfl

theorem onAccept_control (i : Instr) (s : State) :
    (onAccept i s).busy = s.busy ∧ (onAccept i s).errseen = s.errseen := by
  rcases onAccept_cases i s with ⟨-, e⟩ | ⟨-, e⟩ <;> simp [e]

/-- What a step of the block does to the outcome registers: an operation goes on or completes, a word is put in flight, an illegal word
completes, or the block waits. -/
theorem blockStep_errseen {s t : State} (h : blockStep s = .next t) :
    (s.errseen = true → t.errseen = true) ∧
    ((s.busy = true ∨ s.hostOps ≠ t.hostOps) → t.busy = false → t.result ≠ .ok → t.errseen = true) := by
  rcases blockStep_cases h with ⟨i, hb, -, he⟩ | ⟨r, -, -, rfl⟩ | ⟨hb, rfl⟩
  · rcases exec_goesOn_or_completes he with hg | hc
    · exact ⟨fun he => hg.errseen.trans he, fun _ ht => by simp [hg.busy, hb] at ht⟩
    · exact ⟨hc.errseen_of, fun _ _ => hc.errseen_of_error⟩
  · simp
  · rcases acceptNext_cases s with ⟨-, e⟩ | ⟨w, rest, i, -, -, e⟩ | ⟨w, rest, -, e⟩ <;> rw [e]
    · simp [hb]
    · simp [onAccept_control]
    · simp

/-- An abort request or a read leaves the operation in flight and the outcome of the last one alone. -/
theorem hostStep_kept {act : HostAct} (h : ∀ p, act ≠ .reset p) (s : State) :
    (hostStep act s).busy = s.busy ∧ (hostStep act s).errseen = s.errseen ∧ (hostStep act s).hostOps = s.hostOps := by
  cases act with
  | pass => simp [hostStep]
  | abort => simp only [hostStep, raiseAbort]; split <;> simp
  | read n =>
    obtain ⟨v, k, e⟩ := hostRead_eq n s
    simp [hostStep, e]
  | reset p => exact absurd rfl (h p)

/-! ### The read port -/

theorem hostRead_of_value {s : State} {n : BitVec 12} {v : Nat} (h : portValue s n.toNat = .value v) (hv : v < 2 ^ 32) :
    (hostRead n s).readData.toNat = v := by
  simp only [hostRead, h, answerRead_fields, BitVec.toNat_ofNat]
  exact Nat.mod_eq_of_lt hv

@[simp] theorem guarded_true (width v : Nat) : guarded true width v = .value v := rfl

/-- The single registers of the map (R50): the number, whether the register holds a value, and the value. -/
def registerRows (s : State) : List (Nat × Bool × Nat) :=
  [(0x000, true, s.busy.toNat), (0x001, true, phaseCode s.phase), (0x002, true, resultNumber s.result),
    (0x003, true, s.errseen.toNat), (0x004, true, s.pollcnt.toNat),
    (0x005, decide (s.result = .transportError), s.tfcode.toNat), (0x006, s.cmdvalV, s.cmdval.toNat),
    (0x007, true, s.cmdvalV.toNat), (0x008, s.rdyV, s.rdy.toNat), (0x009, true, s.rdyV.toNat),
    (0x00A, s.errV, s.errf.toNat), (0x00B, s.errV, errorCodeNumber s.errc), (0x00C, true, s.errV.toNat),
    (0x00D, s.chkV, s.chkCalc.toNat), (0x00E, s.chkV, s.chkOk.toNat), (0x00F, true, s.chkV.toNat),
    (0x011, true, s.pktV.toNat), (0x012, s.pktV, s.pkt.time.toNat), (0x013, s.pktV, s.pkt.voltage.toNat),
    (0x014, s.pktV, s.pkt.current.toNat), (0x015, s.pktV, s.pkt.temperature.toNat),
    (0x016, s.pktV, s.pkt.light.toNat), (0x017, s.pktV, s.pkt.error.toNat), (0x018, s.pktV, s.pkt.checksum.toNat),
    (0x019, true, s.parV.toNat), (0x01A, s.parV.getLsbD 0, s.par.settle.toNat),
    (0x01B, s.parV.getLsbD 1, s.par.track.toNat), (0x01C, s.parV.getLsbD 2, s.par.sample.toNat),
    (0x01D, s.parV.getLsbD 3, s.par.thresh.toNat), (0x01E, true, s.txV.toNat), (0x030, true, s.devAddr.toNat),
    (0x031, true, s.cfg.cmdReg.toNat), (0x032, true, s.cfg.maxPoll.toNat)]

/-- The map answers the value of a single register that holds one. -/
theorem portValue_of_row (s : State) : ∀ r ∈ registerRows s, r.2.1 = true → portValue s r.1 = .value r.2.2 := by
  simp only [registerRows, List.forall_mem_cons, portValue, guarded, beq_eq_decide]
  simp +contextual

theorem boolToNat_lt_word (b : Bool) : b.toNat < 2 ^ 32 := Nat.lt_of_le_of_lt (Bool.toNat_le b) (by decide)

theorem toNat_lt_word {w : Nat} (hw : w ≤ 32) (x : BitVec w) : x.toNat < 2 ^ 32 :=
  Nat.lt_of_lt_of_le x.isLt (Nat.pow_le_pow_right (by decide) hw)

theorem code_lt_word (p : Phase) (r : ResultCode) (c : ErrorCode) :
    phaseCode p < 2 ^ 32 ∧ resultNumber r < 2 ^ 32 ∧ errorCodeNumber c < 2 ^ 32 := by
  refine ⟨?_, ?_, ?_⟩
  · cases p <;> decide
  · cases r <;> decide
  · cases c <;> decide

/-- Every register fits in the 32 bits the port answers. -/
theorem row_lt_word (s : State) : ∀ r ∈ registerRows s, r.2.2 < 2 ^ 32 := by
  obtain ⟨hp, hr, hc⟩ := code_lt_word s.phase s.result s.errc
  simp (disch := decide) [registerRows, -Nat.reducePow, boolToNat_lt_word, toNat_lt_word, hp, hr, hc]

theorem readData_of_row {s : State} {n : BitVec 12} {r : Nat × Bool × Nat} (hr : r ∈ registerRows s) (hn : n.toNat = r.1)
    (hv : r.2.1 = true) : (hostRead n s).readData.toNat = r.2.2 :=
  hostRead_of_value (hn ▸ portValue_of_row s r hr hv) (row_lt_word s r hr)

/-- The numbers of the arrays (R50). -/
theorem portValue_of_array (s : State) {n : Nat} (h : 0x020 ≤ n) (hn : n < 0x030 ∨ 0x032 < n) :
    portValue s n =
      if 0x020 ≤ n ∧ n ≤ 0x027 then guarded s.txV 8 (byteAt s.txbuf.toList (n - 0x020)).toNat
      else if 0x040 ≤ n ∧ n ≤ 0x048 then .value (byteAt s.cfg.cmdByte.toList (n - 0x040)).toNat
      else if 0x100 ≤ n ∧ n ≤ 0x1FE then
        guarded (n - 0x100 < s.rxbuf.length) 8 (byteAt s.rxbuf (n - 0x100)).toNat
      else .unspecified 32 := by
  unfold portValue
  split
  case h_35 => rfl
  all_goals omega

theorem byteAt_toList {k : Nat} (v : Vector Byte k) (i : Fin k) : byteAt v.toList i = v.get i := by
  simp [byteAt, Vector.get_eq_getElem]

theorem portValue_txbuf {s : State} (h : s.txV = true) (i : Fin 8) :
    portValue s (0x020 + i) = .value (s.txbuf.get i).toNat := by
  rw [portValue_of_array s (by omega) (by omega), if_pos (by omega), h, Nat.add_sub_cancel_left, byteAt_toList, guarded_true]

theorem portValue_cmdByte (s : State) (k : Fin 9) : portValue s (0x040 + k) = .value (s.cfg.cmdByte.get k).toNat := by
  rw [portValue_of_array s (by omega) (by omega), if_neg (by omega), if_pos (by omega), Nat.add_sub_cancel_left, byteAt_toList]

theorem portValue_rxbuf {s : State} (hcap : s.rxbuf.length ≤ 255) {i : Nat} {b : Byte} (h : s.rxbuf[i]? = some b) :
    portValue s (0x100 + i) = .value b.toNat := by
  obtain ⟨hi, rfl⟩ := List.getElem?_eq_some_iff.1 h
  rw [portValue_of_array s (by omega) (by omega), if_neg (by omega), if_neg (by omega), if_pos (by omega),
    Nat.add_sub_cancel_left]
  simp [byteAt, hi]

/-! ### The obligations -/

/-- Settles O47: by the two movers of a step; the block takes a legal operation on, ends it, or accepts one. -/
theorem stepKeepsTheInvariant : Obligations.StepKeepsTheInvariant := by
  intro s t hs h
  rcases step_cases h with ⟨acts, -, hblock⟩ | ⟨act, rest, -, -, rfl⟩
  · exact blockStep_keeps_inv (clearDone_setHostActs_inv hs acts) rfl hblock
  · exact hostStep_keeps_inv (clearDone_setHostActs_inv hs rest) act

/-- Settles O30. -/
theorem abortEndsASequencerOperation : Obligations.AbortEndsASequencerOperation := by
  refine ⟨fun s rest hacts => ?_, fun s i wf hb hn ha => ?_, fun s i b hb => dataOp_ignores_abortPend hb s b⟩
  · rw [step_of_hostAct hacts (by simp), hostStep, raiseAbort]
    cases hb : s.busy <;> simp [hb, clearDone, setHostActs, setAbort]
  · refine ⟨_, exec_of_abortPend wf hb hn ha, ?_⟩
    simp [abortedAt_pollcnt hn]

/-- Settles O31: an operation goes on or completes, and the host's other actions leave the outcome of the last one alone. -/
theorem errseenIsSticky : Obligations.ErrseenIsSticky := by
  refine ⟨fun s t h hmoved ht hr => ?_, fun s t h hs hn => ?_, fun s t p rest ha h => ?_, rfl, fun s rest ha => ?_⟩
  · rcases step_cases h with ⟨acts, -, hblock⟩ | ⟨act, rest, ha, -, rfl⟩
    · obtain ⟨-, ended⟩ := blockStep_errseen hblock
      refine ended (hmoved.imp id fun hl he => ?_) ht hr
      simp [← he] at hl
    · by_cases hp : ∃ p, act = .reset p
      · obtain ⟨p, rfl⟩ := hp
        exact absurd rfl hr
      · obtain ⟨hbusy, -, hops⟩ := hostStep_kept (fun p hp' => hp ⟨p, hp'⟩) (clearDone (setHostActs rest s))
        rcases hmoved with hb | hl
        · simp [hbusy, hb] at ht
        · simp [hops] at hl
  · rcases step_cases h with ⟨acts, -, hblock⟩ | ⟨act, rest, ha, -, rfl⟩
    · obtain ⟨kept, -⟩ := blockStep_errseen hblock
      exact kept hs
    · obtain ⟨-, he, -⟩ := hostStep_kept (fun p hp => hn p rest (hp ▸ ha)) (clearDone (setHostActs rest s))
      exact he.trans hs
  · rw [step_of_hostAct ha (by simp)] at h
    cases h
    rfl
  · exact ⟨_, step_of_hostAct ha (by simp),
      readData_of_row (r := (0x003, true, s.errseen.toNat)) (by simp [registerRows]) rfl rfl⟩

/-- Settles O43: each clause is the frame of one register group. -/
theorem sequencerFrames : Obligations.SequencerFrames := by
  intro s t i hb h
  have hend := sequencer_ends i s t hb h
  obtain ⟨hchk, hpkt, hpar, htx⟩ := hend.sameData
  have outcome : (t.busy = true → t.result = s.result ∧ t.errseen = s.errseen ∧ t.tfcode = s.tfcode) ∧
      (t.result ≠ .transportError → t.tfcode = s.tfcode) := by
    rcases hend.goesOn_or_completes with hg | hc
    · exact ⟨fun _ => ⟨hg.result, hg.errseen, hg.tfcode⟩, fun _ => hg.tfcode⟩
    · exact ⟨by simp [hc.busy], hc.tfcode⟩
  have rxbuf : isFetch i = false → t.rxbuf = s.rxbuf := fun hf => by
    rcases hend.rxbuf_cases with he | ⟨hf', -⟩
    · exact he
    · simp [hf] at hf'
  exact ⟨hend.sameSurroundings, hchk, hpkt, hpar, htx, hend.sameErr, rxbuf, hend.sameCmdval, hend.sameRdy, hend.pollcnt_eq,
    outcome⟩

/-- Settles O44: the state such an operation writes before it completes differs in its destination only. -/
theorem oneStepOperationFrames : Obligations.OneStepOperationFrames := by
  intro s i hb
  obtain ⟨t, h, hend⟩ := dataOp_ends hb s
  have hc := hend.completes
  have hp := hend.phase_cases
  refine ⟨t, h, hc.busy, hc.done, ?_⟩
  cases hend with
  | completed u frame eq | raised u frame _ _ _ eq =>
    obtain ⟨hustep, -, hcount, -, htf⟩ := frame.control
    obtain ⟨htrace, hdev, hix⟩ := frame.bus
    subst t
    exact ⟨htrace, hdev, hix, frame.surroundings, frame.cmdval, frame.rdy, hcount, htf, hustep, hp, frame.rxbuf, frame.pkt,
      frame.par, frame.tx, frame.chk, frame.err⟩

/-- Settles O45: a step leaves `PHASE`, clears it, or takes it to that of the next item or of RSTCH's end. -/
theorem phaseMovesAlongItsEdges : Obligations.PhaseMovesAlongItsEdges := by
  intro s t i hf h
  change PhaseEdge i s.phase t.phase
  cases hb : isBusOp i with
  | true =>
    rcases (sequencer_ends i s t hb h).phase_cases hf with hp | hp | ⟨⟨c, rfl⟩, h2, hp⟩ | ⟨hn, hp⟩
    · exact .inl hp
    · exact .inr (.inl hp)
    · have pending : s.phase = .opPending := by simp [hf.phase, h2, phaseAt]
      exact .inr (.inr (.inl ⟨⟨c, rfl⟩, .inr (.inr ⟨pending, hp⟩)⟩))
    · rw [hf.phase, hp]
      exact phaseAt_succ_edge hn
  | false =>
    rcases (dataEnd_of_exec hb h).phase_cases with hp | ⟨hp, -⟩
    · exact .inl hp
    · exact .inr (.inl hp)

/-- Settles O55: a row of the map is what the port answers, and a read draws a free value at most. -/
theorem hostReadAnswersAndChangesNothing : Obligations.HostReadAnswersAndChangesNothing := by
  intro s n rest ha
  obtain ⟨v, k, he⟩ := hostRead_eq n (clearDone (setHostActs rest s))
  refine ⟨v, (clearDone (setHostActs rest s)).freeIx + k, ?_, fun r hr hn hv => ?_⟩
  · rw [step_of_hostAct ha (by simp), hostStep, he]
    rfl
  · have answer := readData_of_row (s := clearDone (setHostActs rest s)) hr hn hv
    rwa [he] at answer

/-- Settles O56. -/
theorem hostReadsTheBuffers : Obligations.HostReadsTheBuffers := by
  intro s n rest ha hcap
  refine ⟨_, step_of_hostAct ha (by simp), fun hn => ?_, fun i hn hv => ?_, fun k hn => ?_, fun i b hn hb => ?_⟩
  · exact hostRead_of_value (hn ▸ rfl) (Nat.lt_of_le_of_lt hcap (by decide))
  · exact hostRead_of_value (hn ▸ portValue_txbuf hv i) (toNat_lt_word (by decide) _)
  · exact hostRead_of_value (hn ▸ portValue_cmdByte _ k) (toNat_lt_word (by decide) _)
  · exact hostRead_of_value (hn ▸ portValue_rxbuf hcap hb) (toNat_lt_word (by decide) b)

/-- Settles O12. -/
theorem acceptanceForgetsPhase : Obligations.AcceptanceForgetsPhase := by
  intro s p acts hm hb hne
  obtain ⟨w, rest, hw⟩ := List.exists_cons_of_ne_nil hne
  have accepts : ∀ q, step (setPhase q s) = .next (accept w (setHostOps rest (clearDone (setHostActs acts s)))) := fun q => by
    rw [step_of_blockMoves (s := setPhase q s) hm, blockStep_of_idle (by simpa using hb),
      acceptNext_of_presented (w := w) (rest := rest) (by simpa using hw)]
    exact congrArg Host.Outcome.next (accept_setPhase w q (setHostOps rest (clearDone (setHostActs acts s))))
  exact (accepts p).trans (accepts s.phase).symm

/-- Settles O46. -/
theorem resetMeetsTheInvariant : Obligations.ResetMeetsTheInvariant :=
  ⟨reset_inv, fun _ he => by cases he⟩

/-- Settles O54: every reset leaves the registers of `State.reset`. -/
theorem resetLeavesTheStatedValues : Obligations.ResetLeavesTheStatedValues := by
  rintro t (rfl | ⟨s, p, rest, ha, h⟩)
  · simp [State.reset]
  · rw [step_of_hostAct ha (by simp)] at h
    cases h
    simp [hostStep, resetBlock, State.reset]

end Sys2Proof.Machine
end

section
/-! PROOFS of the family 20_memory.md: what the block puts on the bus in a step, that a failed transaction ends the operation, and that
a step always has a next state. What a step can do to the trace is said once, by `TraceGrows`. -/

namespace Sys2Proof.Machine

/-! ### What the ends of a sequencer step write -/

@[simp] theorem failedAt_trace (i : Instr) (u : Ustep) (k : BusKind) (s : State) : (failedAt i u k s).trace = s.trace := by
  unfold failedAt; split <;> split <;> simp

/-- A failure inside an attempt clears `RDY_V` (R138; log 14). -/
@[simp] theorem failedAt_rdyV (i : Instr) (u : Ustep) (k : BusKind) (s : State) :
    (failedAt i u k s).rdyV = if inAttempt i u then false else s.rdyV := by
  unfold failedAt; split <;> split <;> simp [*]

@[simp] theorem writtenAt_trace (i : Instr) (u : Ustep) (s : State) : (writtenAt i u s).trace = s.trace := by
  unfold writtenAt
  split
  · simp
  · split <;> simp

@[simp] theorem byteReadAt_trace (i : Instr) (v : Byte) (s : State) : (byteReadAt i v s).trace = s.trace := by
  unfold byteReadAt; split <;> simp

@[simp] theorem readyAt_trace (i : Instr) (u : Ustep) (s : State) : (readyAt i u s).trace = s.trace := by
  unfold readyAt; split <;> simp

/-! ### What a step adds to the trace -/

/-- The trace is what it was, or has one event more, one that the block may issue (R62, R130). -/
def TraceGrows (s t : State) : Prop := t.trace = s.trace ∨ ∃ e, EventOk s e ∧ t.trace = s.trace ++ [e]

/-- Which events the block may issue depends on the parameters and `DEV_ADDR` alone. -/
theorem eventOk_congr {s t : State} (hc : t.cfg = s.cfg) (ha : t.devAddr = s.devAddr) (e : BusEvent) :
    EventOk t e ↔ EventOk s e := by
  cases e <;> simp [EventOk, hc, ha]

theorem TraceGrows.keeps_busDiscipline {s t : State} (h : TraceGrows s t) (hc : t.cfg = s.cfg) (ha : t.devAddr = s.devAddr)
    (hs : s.BusDiscipline) : t.BusDiscipline := by
  intro e he
  rw [eventOk_congr hc ha]
  rcases h with ht | ⟨new, ok, ht⟩
  · exact hs e (ht ▸ he)
  · rw [ht, List.mem_append, List.mem_singleton] at he
    rcases he with old | rfl
    · exact hs e old
    · exact ok

/-- A sequencer step issues the transaction of its position, to `DEV_ADDR`, or none (R62 to R65). -/
theorem SequencerEnd.traceGrows {i : Instr} {s t : State} (h : SequencerEnd i s t) : TraceGrows s t := by
  cases h with
  | illegal | aborted | waited => subst t; exact .inl (by simp)
  | failed _ _ _ k c => subst t; exact .inr ⟨.failed k s.devAddr c, rfl, by simp⟩
  | written _ _ _ _ _ k =>
    subst t; exact .inr ⟨.regWrite s.devAddr s.cfg.cmdReg (commandByte s.cfg k), ⟨rfl, rfl, k, rfl⟩, by simp⟩
  | byteRead | ready | exhausted | again =>
    subst t; exact .inr ⟨.regRead s.devAddr s.cfg.cmdReg (nextAnswer s).byte, ⟨rfl, rfl⟩, by simp⟩
  | badBlock _ n | goodBlock _ n =>
    subst t
    exact .inr ⟨.blockRead s.devAddr n (answeredBlock (nextAnswer s)), ⟨rfl, answeredBlock_length_le _⟩, by simp⟩

theorem DataEnd.trace_eq {i : Instr} {s t : State} (h : DataEnd i s t) : t.trace = s.trace := by
  cases h with
  | completed u frame eq | raised u frame _ _ _ eq =>
    obtain ⟨htrace, -⟩ := frame.bus
    simpa [eq] using htrace

theorem exec_traceGrows {i : Instr} {s t : State} (h : exec i s = .next t) : TraceGrows s t := by
  cases hb : isBusOp i with
  | true => exact (sequencer_ends i s t hb h).traceGrows
  | false => exact .inl (dataEnd_of_exec hb h).trace_eq

theorem onAccept_trace (i : Instr) (s : State) : (onAccept i s).trace = s.trace := by
  rcases onAccept_cases i s with ⟨-, e⟩ | ⟨-, e⟩ <;> simp [e]

theorem acceptNext_trace (s : State) : (acceptNext s).trace = s.trace := by
  rcases acceptNext_cases s with ⟨-, e⟩ | ⟨w, rest, i, -, -, e⟩ | ⟨w, rest, -, e⟩ <;> simp [e, onAccept_trace]

theorem blockStep_traceGrows {s t : State} (h : blockStep s = .next t) : TraceGrows s t := by
  rcases blockStep_cases h with ⟨i, -, -, he⟩ | ⟨r, -, -, rfl⟩ | ⟨-, rfl⟩
  · exact exec_traceGrows he
  · exact .inl (by simp)
  · exact .inl (acceptNext_trace s)

/-- Of the host's actions only a reset touches the trace (R261). -/
theorem hostStep_trace {act : HostAct} (h : ∀ p, act ≠ .reset p) (s : State) : (hostStep act s).trace = s.trace := by
  cases act with
  | pass => rfl
  | abort => simp only [hostStep, raiseAbort]; split <;> simp
  | read n =>
    obtain ⟨v, k, e⟩ := hostRead_eq n s
    simp [hostStep, e]
  | reset p => exact absurd rfl (h p)

/-- A step is a reset, which empties the trace, or adds at most one event to it (R130, R261). -/
theorem step_traceGrows_or_reset {s t : State} (h : step s = .next t) :
    ((∀ p rest, s.hostActs ≠ .reset p :: rest) ∧ TraceGrows s t) ∨
    ((∃ p rest, s.hostActs = .reset p :: rest) ∧ t.trace = []) := by
  rcases step_cases h with ⟨acts, hm, hblock⟩ | ⟨act, rest, ha, -, rfl⟩
  · refine .inl ⟨fun p rest hr => by simp [State.BlockMoves, hr] at hm, ?_⟩
    simpa [TraceGrows, eventOk_congr (s := s) (t := clearDone (setHostActs acts s))] using blockStep_traceGrows hblock
  · by_cases hp : ∃ p, act = .reset p
    · obtain ⟨p, rfl⟩ := hp
      exact .inr ⟨⟨p, rest, ha⟩, rfl⟩
    · have noReset : ∀ p, act ≠ .reset p := fun p hp' => hp ⟨p, hp'⟩
      refine .inl ⟨fun p rest' hr => noReset p (List.cons.inj (ha.symm.trans hr)).1, .inl ?_⟩
      simp [hostStep_trace noReset]

/-! ### A failed transaction -/

/-- A transaction is issued only by a sequencer operation, at a position of its template (R131). -/
theorem busOp_of_busKindAt {i : Instr} {u : Ustep} {k : BusKind} (h : busKindAt i u = some k) :
    isBusOp i = true ∧ u.item < itemCount i := by
  cases i with
  | clrbuf | pushb | setpar | decdata | decpar | encpar | chksum | errdec | errmap => cases h
  | sendcmd | rdcreg | isrdy | geterr | poll | rstch | fetch =>
    simp only [busKindAt] at h
    refine ⟨rfl, ?_⟩
    simp only [itemCount]
    split_ifs at h <;> omega

/-- A transaction that fails ends the operation, with nothing done after it (R230). -/
theorem exec_of_failure {i : Instr} {s : State} {k : BusKind} {c : Byte} (wf : i.wellFormed = true)
    (ha : s.abortPend = false) (hk : busKindAt i s.ustep = some k) (hc : (nextAnswer s).failure = some c) :
    exec i s = .next (raiseTransport c (failedAt i s.ustep k (emit (.failed k s.devAddr c) (takeAnswer (openedAt i s))))) := by
  obtain ⟨hb, hn⟩ := busOp_of_busKindAt hk
  obtain ⟨t, h⟩ := busOp_next hb hn
  cases sequencer_ends i s t hb h with
  | failed _ _ _ k' c' kind failure eq =>
    cases hk.symm.trans kind
    cases hc.symm.trans failure
    rw [h, eq]
  | illegal wf' => simp [wf] at wf'
  | aborted _ _ abort => simp [ha] at abort
  | waited _ _ op item => obtain ⟨a, rfl⟩ := op; simp [busKindAt, item] at hk
  | written _ _ _ _ failure | byteRead _ _ _ _ failure | ready _ _ _ _ failure | exhausted _ _ _ _ failure
  | again _ _ _ _ failure | badBlock _ _ _ _ _ failure | goodBlock _ _ _ _ _ failure => simp [hc] at failure

/-! ### Progress -/

/-- At a position of its template every operation has a next state (R131). -/
theorem exec_next {i : Instr} {s : State} (h : s.ustep.item < itemCount i) : ∃ t, exec i s = .next t := by
  cases hb : isBusOp i with
  | true => exact busOp_next hb h
  | false => exact (dataOp_ends hb s).imp fun _ => And.left

theorem blockStep_next {s : State} (h : s.Inv) : ∃ t, blockStep s = .next t := by
  cases hb : s.busy with
  | false => exact ⟨_, blockStep_of_idle hb⟩
  | true =>
    obtain ⟨i, hd, hf⟩ := h.flight hb
    rw [blockStep_of_busy hb (decode_of_decodeLegal hd)]
    exact exec_next hf.item

/-! ### The obligations -/

/-- Settles O48: a reset leaves no event to check, and any other step adds at most one, that the block may issue. -/
theorem stepKeepsTheBusDiscipline : Obligations.StepKeepsTheBusDiscipline := by
  intro s t hs h
  obtain ⟨hcfg, haddr, -⟩ := parametersNeverChange s t h
  rcases step_traceGrows_or_reset h with ⟨noReset, grows⟩ | ⟨-, empty⟩
  · exact grows.keeps_busDiscipline hcfg (haddr noReset) hs
  · intro e he
    simp [empty] at he

/-- Settles O29. -/
theorem transportFailureEndsTheOperation : Obligations.TransportFailureEndsTheOperation := by
  intro s i k c wf ha hk hc
  refine ⟨_, exec_of_failure wf ha hk hc, ?_⟩
  simp

/-- Settles O49: the block always moves under the invariant, and the host's other actions never stop. -/
theorem machineNeverStops : Obligations.MachineNeverStops := by
  intro s hs
  have blockMoves : ∀ acts, s.BlockMoves acts → ∃ t, step s = .next t := fun acts hm =>
    step_of_blockMoves hm ▸ blockStep_next (clearDone_setHostActs_inv hs acts)
  cases ha : s.hostActs with
  | nil => exact blockMoves [] (.inl ⟨ha, rfl⟩)
  | cons act rest =>
    by_cases hp : act = .pass
    · exact blockMoves rest (.inr (hp ▸ ha))
    · exact ⟨_, step_of_hostAct ha hp⟩

/-- Settles O50. -/
theorem oneTransactionAStep : Obligations.OneTransactionAStep := by
  intro s t h
  rcases step_traceGrows_or_reset h with ⟨-, same | ⟨e, -, one⟩⟩ | reset
  · exact .inl same
  · exact .inr (.inl ⟨e, one⟩)
  · exact .inr (.inr reset)

end Sys2Proof.Machine
end

section
/-! PROOFS of the family 30_encoding.md. The decoder is gone through once, by `DecodeAnswer`: every word is that of an operation, or its
opcode is known and its zero bits are not zero, or its opcode is unknown. The round trip, the rows and the classes of illegal words
follow; then an operand out of range, and the host of a pseudo-operation. -/

namespace Sys2Proof.Machine

/-! ### What the decoder can answer -/

/-- The sixteen opcodes of R94. -/
def opcodes : List Nat := [1, 2, 3, 4, 5, 6, 7, 0x10, 0x11, 0x12, 0x13, 0x14, 0x15, 0x20, 0x21, 0x22]

/-- The three answers of the decoder: an operation whose word it read, and the two refusals that come before the operand ranges (R92). -/
inductive DecodeAnswer (w : Word) : Except DecodeRefusal Instr → Prop
  | ok (i : Instr) (opcode : (opcField w).toNat ∈ opcodes) (word : encode i = w) : DecodeAnswer w (.ok i)
  | mustBeZeroSet (opcode : (opcField w).toNat ∈ opcodes) : DecodeAnswer w (.error .mustBeZeroSet)
  | unknownOpcode (opcode : (opcField w).toNat ∉ opcodes) : DecodeAnswer w (.error .unknownOpcode)

section
variable {w : Word} {i : Instr} {o : Byte}

theorem pack_of_fields {a : Byte} {b : Half} (ho : opcField w = o) (ha : aField w = a) (hb : bField w = b) :
    pack o a b = w := by
  rw [← ho, ← ha, ← hb, pack_fields]

theorem DecodeAnswer.ofEncode (he : encode i = pack o (aField w) (bField w)) (hw : (opcField w).toNat = o.toNat)
    (ho : o.toNat ∈ opcodes) : DecodeAnswer w (.ok i) :=
  .ok i (hw ▸ ho) (he.trans (pack_of_fields (BitVec.eq_of_toNat_eq hw) rfl rfl))

theorem DecodeAnswer.takesNone (he : encode i = pack o 0#8 0#16) (hw : (opcField w).toNat = o.toNat)
    (ho : o.toNat ∈ opcodes) : DecodeAnswer w (takesNone (aField w) (bField w) i) := by
  unfold Sys2Proof.takesNone
  split
  next hz => exact .ofEncode (by rw [he, hz.1, hz.2]) hw ho
  next => exact .mustBeZeroSet (hw ▸ ho)

theorem DecodeAnswer.takesA (he : encode i = pack o (aField w) 0#16) (hw : (opcField w).toNat = o.toNat)
    (ho : o.toNat ∈ opcodes) : DecodeAnswer w (takesA (bField w) i) := by
  unfold Sys2Proof.takesA
  split
  next hz => exact .ofEncode (by rw [he, hz]) hw ho
  next => exact .mustBeZeroSet (hw ▸ ho)

theorem DecodeAnswer.takesLowB (he : encode i = pack o (aField w) (0#8 ++ (bField w).extractLsb' 0 8))
    (hw : (opcField w).toNat = o.toNat) (ho : o.toNat ∈ opcodes) : DecodeAnswer w (takesLowB (bField w) i) := by
  unfold Sys2Proof.takesLowB
  split
  next hz => exact .ofEncode (by rw [he, append_lowB _ hz]) hw ho
  next => exact .mustBeZeroSet (hw ▸ ho)

end

/-- By the rows of R94: those whose only operand is `a`, FETCH, SETPAR, no row, and those with no operand. -/
theorem decode_answer (w : Word) : DecodeAnswer w (decode w) := by
  unfold decode
  split
  case h_1 hw | h_5 hw | h_9 hw | h_16 hw => exact .takesA rfl hw (by decide)
  case h_6 hw => exact .takesLowB rfl hw (by decide)
  case h_10 hw => exact .ofEncode rfl hw (by decide)
  case h_17 => exact .unknownOpcode (by simp_all [opcodes])
  all_goals next hw => exact .takesNone rfl hw (by decide)

/-- Decoding the word of an operation gives it back, and its row of R94 selects that word. -/
theorem encodeRoundTrip (i : Instr) : Laws.EncodeRoundTrip.Statement i := by
  cases i with
  | sendcmd a => exact Laws.EncodeRoundTrip.sendcmd a
  | rdcreg => exact Laws.EncodeRoundTrip.rdcreg
  | isrdy => exact Laws.EncodeRoundTrip.isrdy
  | poll => exact Laws.EncodeRoundTrip.poll
  | rstch a => exact Laws.EncodeRoundTrip.rstch a
  | fetch a n => exact Laws.EncodeRoundTrip.fetch a n
  | geterr => exact Laws.EncodeRoundTrip.geterr
  | clrbuf => exact Laws.EncodeRoundTrip.clrbuf
  | pushb a => exact Laws.EncodeRoundTrip.pushb a
  | setpar a b => exact Laws.EncodeRoundTrip.setpar a b
  | decdata => exact Laws.EncodeRoundTrip.decdata
  | decpar => exact Laws.EncodeRoundTrip.decpar
  | encpar => exact Laws.EncodeRoundTrip.encpar
  | chksum => exact Laws.EncodeRoundTrip.chksum
  | errdec => exact Laws.EncodeRoundTrip.errdec
  | errmap a => exact Laws.EncodeRoundTrip.errmap a

theorem decode_eq_ok_iff {w : Word} {i : Instr} : decode w = .ok i ↔ encode i = w := by
  constructor
  · intro h
    have answer := decode_answer w
    rw [h] at answer
    cases answer
    assumption
  · rintro rfl
    exact (encodeRoundTrip i).1

theorem decode_eq_unknownOpcode_iff {w : Word} :
    decode w = .error .unknownOpcode ↔ (opcField w).toNat ∉ opcodes := by
  have answer := decode_answer w
  generalize decode w = r at answer ⊢
  cases answer <;> simp [*]

theorem decode_eq_mustBeZeroSet_iff {w : Word} :
    decode w = .error .mustBeZeroSet ↔ (opcField w).toNat ∈ opcodes ∧ ∀ i, decode w ≠ .ok i := by
  have answer := decode_answer w
  generalize decode w = r at answer ⊢
  cases answer <;> simp [*]

/-- The operand ranges come after the decoder (R92). -/
theorem decode_ne_operandOutOfRange (w : Word) : decode w ≠ .error .operandOutOfRange := by
  intro h
  have answer := decode_answer w
  rw [h] at answer
  cases answer

/-! ### The rows of the opcode map -/

/-- The operation of the row of `i` whose operands stand in `w` (R91). -/
def withOperandsOf (w : Word) (i : Instr) : Instr :=
  match i with
  | .sendcmd _ => .sendcmd (aField w)
  | .rstch _ => .rstch (aField w)
  | .fetch _ _ => .fetch (aField w) ((bField w).extractLsb' 0 8)
  | .pushb _ => .pushb (aField w)
  | .setpar _ _ => .setpar (aField w) (bField w)
  | .errmap _ => .errmap (aField w)
  | i => i

theorem mnemonic_withOperandsOf (w : Word) (i : Instr) : mnemonic (withOperandsOf w i) = mnemonic i := by
  cases i <;> rfl

theorem matchBits_eq_pack (i : Instr) : matchBits i = pack (opcField (encode i)) 0#8 0#16 := by
  cases i <;> simp only [encode, opcField_pack] <;> rfl

/-- `BitVec.and_allOnes` in the spelling of the mask column (R94). -/
theorem byte_and_ones (x : Byte) : x &&& 0xFF#8 = x := BitVec.and_allOnes

/-- `BitVec.and_allOnes` in the spelling of the mask column (R94). -/
theorem half_and_ones (x : Half) : x &&& 0xFFFF#16 = x := BitVec.and_allOnes

theorem highB_of_and_eq_zero {b : Half} (h : b &&& 0xFF00#16 = 0#16) : b.extractLsb' 8 8 = 0#8 := by
  have hx : (b &&& 0xFF00#16).extractLsb' 8 8 = 0#8 := by rw [h]; rfl
  rwa [BitVec.extractLsb'_and, show (0xFF00#16).extractLsb' 8 8 = 0xFF#8 from rfl, byte_and_ones] at hx

/-- Every mask of R94 covers the opcode; the rest of it says which operand bits must be zero (R90). -/
theorem fields_of_mask {w m : Word} {o ma : Byte} {mb : Half} (hm : m = pack 0xFF#8 ma mb)
    (h : w &&& m = pack o 0#8 0#16) : opcField w = o ∧ aField w &&& ma = 0#8 ∧ bField w &&& mb = 0#16 := by
  rw [hm, ← pack_fields w, Laws.EncodeRoundTrip.pack_and, byte_and_ones] at h
  exact pack_inj h

/-- A word in the row of `i` is the word of that row's operation with the word's own operands. -/
theorem encode_withOperandsOf {w : Word} {i : Instr} (h : w &&& maskBits i = matchBits i) :
    encode (withOperandsOf w i) = w := by
  rw [matchBits_eq_pack] at h
  cases i with
  | sendcmd | rstch | pushb | errmap =>
    obtain ⟨ho, -, hb⟩ := fields_of_mask Laws.EncodeRoundTrip.maskA h
    exact pack_of_fields (by simpa [encode] using ho) rfl (by simpa [half_and_ones] using hb)
  | fetch =>
    obtain ⟨ho, -, hb⟩ := fields_of_mask Laws.EncodeRoundTrip.maskALowB h
    exact pack_of_fields (by simpa [encode] using ho) rfl (append_lowB _ (highB_of_and_eq_zero hb)).symm
  | setpar =>
    obtain ⟨ho, -, -⟩ := fields_of_mask Laws.EncodeRoundTrip.maskAB h
    exact pack_of_fields (by simpa [encode] using ho) rfl rfl
  | rdcreg | isrdy | poll | geterr | clrbuf | decdata | decpar | encpar | chksum | errdec =>
    obtain ⟨ho, ha, hb⟩ := fields_of_mask (ma := 0xFF#8) (mb := 0xFFFF#16) rfl h
    exact pack_of_fields (by simpa [encode] using ho) (by simpa [byte_and_ones] using ha)
      (by simpa [half_and_ones] using hb)

theorem mask_of_decode {w : Word} {i : Instr} (h : decode w = .ok i) : w &&& maskBits i = matchBits i :=
  decode_eq_ok_iff.1 h ▸ (encodeRoundTrip i).2

theorem decode_of_mask {w : Word} {i : Instr} (h : w &&& maskBits i = matchBits i) :
    decode w = .ok (withOperandsOf w i) :=
  decode_eq_ok_iff.2 (encode_withOperandsOf h)

/-- A word is in no row exactly when it decodes to no operation (R94). -/
theorem no_row_iff {w : Word} : (∀ i, w &&& maskBits i ≠ matchBits i) ↔ ∀ i, decode w ≠ .ok i :=
  ⟨fun h i hd => h i (mask_of_decode hd), fun h _ hm => h _ (decode_of_mask hm)⟩

/-! ### The operand ranges -/

/-- The operations with an operand outside its legal range (R92). -/
theorem wellFormed_eq_false_iff {i : Instr} :
    i.wellFormed = false ↔ ∃ a : Byte, (8 < a.toNat ∧ (i = .sendcmd a ∨ ∃ n, i = .fetch a n)) ∨
      (1 < a.toNat ∧ i = .rstch a) ∨ (3 < a.toNat ∧ ∃ b, i = .setpar a b) := by
  cases i <;> simp [Instr.wellFormed]

theorem decodeLegal_of_decode_error {w : Word} {r : DecodeRefusal} (h : decode w = .error r) :
    decodeLegal w = .error r := by
  simp [decodeLegal, h]

theorem decodeLegal_of_decode_ok {w : Word} {i : Instr} (h : decode w = .ok i) :
    decodeLegal w = if i.wellFormed then .ok i else .error .operandOutOfRange := by
  simp [decodeLegal, h]

theorem decodeLegal_eq_ok_iff {w : Word} {i : Instr} :
    decodeLegal w = .ok i ↔ i.wellFormed = true ∧ encode i = w := by
  rw [← decode_eq_ok_iff]
  cases h : decode w with
  | error r => simp [decodeLegal_of_decode_error h]
  | ok j =>
    rw [decodeLegal_of_decode_ok h]
    by_cases e : j = i
    · subst e; simp
    · cases j.wellFormed <;> simp [e]

theorem decodeLegal_eq_error_iff {w : Word} {r : DecodeRefusal} (hr : r ≠ .operandOutOfRange) :
    decodeLegal w = .error r ↔ decode w = .error r := by
  cases h : decode w with
  | error q => simp [decodeLegal_of_decode_error h]
  | ok j =>
    rw [decodeLegal_of_decode_ok h]
    cases j.wellFormed <;> simp [hr.symm]

theorem decodeLegal_eq_operandOutOfRange_iff {w : Word} :
    decodeLegal w = .error .operandOutOfRange ↔ ∃ i, i.wellFormed = false ∧ encode i = w := by
  simp only [← decode_eq_ok_iff]
  cases h : decode w with
  | error r =>
    have hr : r ≠ .operandOutOfRange := fun e => decode_ne_operandOutOfRange w (e ▸ h)
    simp [decodeLegal_of_decode_error h, hr]
  | ok j => simp [decodeLegal_of_decode_ok h]

/-- Each of the four meanings looks its operand up first (R136, R150, R156, R174). -/
theorem exec_of_not_wellFormed {i : Instr} (h : i.wellFormed = false) (s : State) :
    exec i s = .next (raise .illegalOperation s) := by
  obtain ⟨a, ⟨ha, rfl | ⟨n, rfl⟩⟩ | ⟨ha, rfl⟩ | ⟨ha, b, rfl⟩⟩ := wellFormed_eq_false_iff.1 h
  · simp [exec, execSendcmd, (commandOf_eq_none a).2 ha]
  · simp [exec, execFetch, (commandOf_eq_none a).2 ha]
  · simp [exec, execRstch, (channelOf_eq_none a).2 ha]
  · simp [exec, execSetpar, (parIndexOf_eq_none a).2 ha]

/-! ### The block when idle, and the host of a pseudo-operation -/

theorem step_of_presented {s : State} {w : Word} {rest : List Word} {acts : List HostAct} (hm : s.BlockMoves acts)
    (hb : s.busy = false) (ho : s.hostOps = w :: rest) :
    step s = .next (accept w (setHostOps rest (clearDone (setHostActs acts s)))) := by
  rw [step_of_blockMoves hm, blockStep_of_idle (by simpa using hb), acceptNext_of_presented (by simpa using ho)]

theorem accept_of_illegal {w : Word} (h : ∀ i : Instr, i.wellFormed = true → encode i ≠ w) (s : State) :
    accept w s = raise .illegalOperation (latch w s) := by
  obtain ⟨i, hd, -⟩ | ⟨r, -, e⟩ := accept_cases w s
  · obtain ⟨hi, he⟩ := decodeLegal_eq_ok_iff.1 hd
    exact absurd he (h i hi)
  · exact e

theorem continuePseudo_waits {rest : List Instr} {s : State} (h : s.busy = true ∨ s.hostOps ≠ []) :
    continuePseudo rest s = (rest, s) :=
  if_pos h

theorem continuePseudo_stops {rest : List Instr} {s : State} (hb : s.busy = false) (ho : s.hostOps = [])
    (h : s.result ≠ .ok ∨ s.done = false ∨ rest = []) : continuePseudo rest s = ([], s) := by
  unfold continuePseudo
  rw [if_neg (by simp [hb, ho])]
  split
  next hd hr => simp [hd, hr] at h
  next => rfl

theorem continuePseudo_goesOn {i : Instr} {more : List Instr} {s : State} (hb : s.busy = false) (ho : s.hostOps = [])
    (hr : s.result = .ok) (hd : s.done = true) : continuePseudo (i :: more) s = (more, setHostOps [encode i] s) := by
  simp [continuePseudo, present, hb, ho, hr, hd]

/-- A reset completes nothing (R263), so the host goes no further. -/
theorem pseudoStep_of_reset {rest : List Instr} {s : State} {pins : BusAddr} {acts : List HostAct}
    (ha : s.hostActs = .reset pins :: acts) (ho : s.hostOps = []) :
    pseudoStep rest s = .next ([], resetBlock pins (clearDone (setHostActs acts s))) := by
  simp only [pseudoStep, step_of_hostAct ha (by simp)]
  exact congrArg _ (continuePseudo_stops rfl (by simpa [hostStep, resetBlock] using ho) (.inr (.inl rfl)))

/-! ### The obligations -/

/-- Settles O2: the decoder's answers carry the word they were read from, and each operation's word was read back. -/
theorem decodeExactlyInvertsEncode : Obligations.DecodeExactlyInvertsEncode :=
  fun _ _ => decode_eq_ok_iff

/-- Settles O3: a word in the row of `i` decodes to that row's operation with the operands standing in the word. -/
theorem rowsSelectedByMatchAndMask : Obligations.RowsSelectedByMatchAndMask :=
  ⟨fun _ _ => mask_of_decode, fun w i h => ⟨withOperandsOf w i, decode_of_mask h, mnemonic_withOperandsOf w i⟩⟩

/-- Settles O4: the decoder makes the first two refusals, and the operand ranges make the third of the words it reads. -/
theorem illegalWordsClassified : Obligations.IllegalWordsClassified := by
  refine ⟨fun w => ?_, fun w => ?_, fun w => ?_, fun w i => decodeLegal_eq_ok_iff⟩
  · exact (decodeLegal_eq_error_iff (by simp)).trans decode_eq_unknownOpcode_iff
  · rw [no_row_iff]
    exact (decodeLegal_eq_error_iff (by simp)).trans decode_eq_mustBeZeroSet_iff
  · rw [decodeLegal_eq_operandOutOfRange_iff]
    constructor
    · rintro ⟨i, hi, rfl⟩
      obtain ⟨a, ⟨ha, rfl | ⟨n, rfl⟩⟩ | ⟨ha, rfl⟩ | ⟨ha, b, rfl⟩⟩ := wellFormed_eq_false_iff.1 hi
      · exact ⟨a, .inl ⟨ha, .inl rfl⟩⟩
      · exact ⟨a, .inl ⟨ha, .inr ⟨n, rfl⟩⟩⟩
      · exact ⟨a, .inr (.inl ⟨ha, rfl⟩)⟩
      · exact ⟨a, .inr (.inr ⟨ha, b, rfl⟩)⟩
    · rintro ⟨a, ⟨ha, rfl | ⟨n, rfl⟩⟩ | ⟨ha, rfl⟩ | ⟨ha, b, rfl⟩⟩ <;>
        exact ⟨_, by simpa [Instr.wellFormed] using ha, rfl⟩

/-- Settles O9: the word is accepted, refused by the decoder or the operand ranges, and completes in the accepting step. -/
theorem acceptanceOfAnIllegalWord : Obligations.AcceptanceOfAnIllegalWord := by
  intro s w rest acts hm hb ho h
  rw [step_of_presented hm hb ho, accept_of_illegal h]
  rfl

/-- Settles O1: each word is the encoder's. -/
theorem specWordsDecode : Obligations.SpecWordsDecode := by
  simp only [Obligations.SpecWordsDecode, decode_eq_ok_iff]
  decide

/-- Settles O5: the host waits, goes on or stops, and after a reset it finds no completion and stops. -/
theorem pseudoOperationsExpand : Obligations.PseudoOperationsExpand := by
  refine ⟨by decide, by decide, by decide, by decide, fun _ => rfl, fun _ _ _ _ => rfl, fun rest s => ?_, ?_⟩
  · refine ⟨continuePseudo_waits, continuePseudo_stops, fun i more hb ho hr hd hrest => ?_⟩
    subst hrest
    exact continuePseudo_goesOn hb ho hr hd
  · intro rest s pins acts ha ho
    exact ⟨_, pseudoStep_of_reset ha ho, ho⟩

/-- Settles O15: each meaning that takes such an operand answers `raise` at once. -/
theorem outOfRangeOperandIsIllegal : Obligations.OutOfRangeOperandIsIllegal :=
  fun s _ h => exec_of_not_wellFormed h s

end Sys2Proof.Machine
end

section
/-! PROOFS of the family 40_sequencer.md. First one rule per item of a sequence template (a command write, a byte read, an attempt's
two halves), for a step that is not aborted and whose transaction succeeds. A whole operation then runs by them: two steps make an
attempt (`run_attempt`), and the attempts of a poll are gone through once, by `run_attempts`. -/

namespace Sys2Proof.Machine

/-! ### Values: the count, the ready bit, the error field, the commands -/

/-- The count saturates (R45, R140). -/
theorem bumpCount_toNat_eq_min (c : Half) : (bumpCount c).toNat = min (c.toNat + 1) 65535 := by
  by_cases h : c.toNat < 65535
  · rw [bumpCount_toNat c h]; omega
  · have full : c = 65535#16 := BitVec.eq_of_toNat_eq (by simp; omega)
    simp [bumpCount, full]

/-- Bit 5 as the mask 0x20 (R104, R138). -/
theorem readyBit_eq_mask (v : Byte) : readyBit v = (v &&& 0x20#8 != 0#8) := by
  have mask : v &&& 0x20#8 = if v.getLsbD 5 then 0x20#8 else 0#8 := BitVec.and_twoPow v 5
  rw [readyBit, mask]
  cases v.getLsbD 5 <;> rfl

theorem readyBit_eq_true_iff {v : Byte} : readyBit v = true ↔ v &&& 0x20#8 ≠ 0#8 := by simp [readyBit_eq_mask]

theorem readyBit_eq_false_iff {v : Byte} : readyBit v = false ↔ v &&& 0x20#8 = 0#8 := by simp [readyBit_eq_mask]

/-- The error field as a quotient and a remainder (R206). -/
theorem errField_toNat (e : Byte) : (errField e).toNat = e.toNat / 8 % 4 := by
  have field : errField e = e.extractLsb' 3 2 := by
    ext j hj
    have : j = 0 ∨ j = 1 := by omega
    rcases this with rfl | rfl <;> simp [errField]
  simp [field, BitVec.extractLsb'_toNat, Nat.shiftRight_eq_div_pow]

/-- Codes above 3 are `unknown`, number 4 (R113, R210). -/
theorem errorCodeNumber_errMap (c : Byte) : errorCodeNumber (errMap c) = min c.toNat 4 := by
  unfold errMap
  split <;> simp_all [errorCodeNumber]
  omega

/-- A two-bit field is never an unknown code (R209). -/
theorem errorCodeNumber_errCodeOf (e : Byte) : errorCodeNumber (errCodeOf e) = (errField e).toNat := by
  rw [errCodeOf, errorCodeNumber_errMap, BitVec.toNat_setWidth]
  omega

/-- A legal command index selects the byte of that index (R100). -/
theorem commandOf_of_legal {a : Byte} (h : a.toNat < 9) :
    ∃ k, commandOf a = some k ∧ commandIndex k = ⟨a.toNat, h⟩ := by
  obtain ⟨k, hk⟩ := Option.ne_none_iff_exists'.1 (mt (commandOf_eq_none a).1 (by omega))
  exact ⟨k, hk, Fin.ext (commandOf_index a k hk)⟩

/-- The reset commands of the two channels are those of index 1 and 2 (R100, R115). -/
theorem channelOf_of_legal {ch : Byte} (h : ch.toNat < 2) :
    ∃ c, channelOf ch = some c ∧ commandIndex (resetCommand c) = ⟨1 + ch.toNat, by omega⟩ := by
  have : ch = 0#8 ∨ ch = 1#8 := by
    have : ch.toNat = 0 ∨ ch.toNat = 1 := by omega
    exact this.imp BitVec.eq_of_toNat_eq BitVec.eq_of_toNat_eq
  rcases this with rfl | rfl
  · exact ⟨.a, rfl, rfl⟩
  · exact ⟨.b, rfl, rfl⟩

theorem rstch_wellFormed_iff {ch : Byte} : (Instr.rstch ch).wellFormed = true ↔ ch.toNat < 2 :=
  decide_eq_true_iff.trans Nat.lt_succ_iff.symm

theorem fetch_wellFormed_iff {a n : Byte} : (Instr.fetch a n).wellFormed = true ↔ a.toNat < 9 :=
  decide_eq_true_iff.trans Nat.lt_succ_iff.symm

/-! ### Using an answer of the device -/

/-- An answer used is gone from the script, or, the script being used up, moves the index behind it (R77, R78). -/
theorem takeAnswer_eq (s : State) :
    takeAnswer s = { s with dev := s.dev.tail, devIx := if s.dev = [] then s.devIx + 1 else s.devIx } := by
  unfold takeAnswer
  cases s.dev <;> simp

theorem takeAnswer_of_dev {s : State} {d : DevAnswer} {rest : List DevAnswer} (h : s.dev = d :: rest) :
    takeAnswer s = { s with dev := rest } := by
  simp [takeAnswer, h]

theorem nextAnswer_of_dev {s : State} {d : DevAnswer} {rest : List DevAnswer} (h : s.dev = d :: rest) :
    nextAnswer s = d := by
  simp [nextAnswer, h]

/-! ### The items of a template, not aborted and answered -/

/-- A command write has gone out (R63, R133). -/
def commandWritten (k : Command) (s : State) : State :=
  emit (.regWrite s.devAddr s.cfg.cmdReg (commandByte s.cfg k)) (takeAnswer s)

/-- A byte read has come in (R64, R135). -/
def byteLoaded (s : State) : State :=
  loadCmdval (nextAnswer s).byte (emit (.regRead s.devAddr s.cfg.cmdReg (nextAnswer s).byte) (takeAnswer s))

/-- The byte read of an attempt has come in, `RDY` is set from it, and the attempt is counted (R138, R140). -/
def byteCounted (s : State) : State := countAttempt (loadRdy (nextAnswer s).byte (byteLoaded s))

/-- What follows the byte of an attempt (R140): the poll returns, times out, or goes on. -/
def attemptEnd (i : Instr) (s : State) : State :=
  if s.rdy then readyAt i s.ustep s
  else if pollExhausted s.cfg.maxPoll s.pollcnt then raise .operationTimedOut (cleanupOf i s)
  else gotoSub s.ustep.item .write s

section
variable {s : State} {onAbort onFail onOk : State → State} (ha : s.abortPend = false)
  (hf : (nextAnswer s).failure = none)
include ha hf

theorem send_of_ok (k : Command) : send k onAbort onFail onOk s = onOk (commandWritten k s) := by
  rcases send_cases k onAbort onFail onOk s with ⟨h, -⟩ | ⟨c, -, h, -⟩ | ⟨-, -, e⟩
  · simp [ha] at h
  · simp [hf] at h
  · exact e

theorem readReg_of_ok (onByte : Byte → State → State) :
    readReg onAbort onFail onByte s = onByte (nextAnswer s).byte (byteLoaded s) := by
  rcases readReg_cases onAbort onFail onByte s with ⟨h, -⟩ | ⟨c, -, h, -⟩ | ⟨-, -, e⟩
  · simp [ha] at h
  · simp [hf] at h
  · exact e

theorem rdcregStep_write (onByte : Byte → State → State) (hi : s.ustep.item = 0) :
    rdcregStep onAbort onFail onByte s = .next (gotoItem 1 (commandWritten .rdCmdReg s)) := by
  simp only [rdcregStep, hi, send_of_ok ha hf]

theorem rdcregStep_read (onByte : Byte → State → State) (hi : s.ustep.item = 1) :
    rdcregStep onAbort onFail onByte s = .next (onByte (nextAnswer s).byte (byteLoaded s)) := by
  simp only [rdcregStep, hi, readReg_of_ok ha hf]

/-- The block read of FETCH takes the bytes when there are as many as expected, and none otherwise (R156, R157). -/
theorem blockItem_of_ok (n : Byte) (hlen : (nextAnswer s).block.length ≤ Config.rxbufCap) :
    blockItem n s =
      if (nextAnswer s).block.length = n.toNat then
        complete (loadRx (nextAnswer s).block (emit (.blockRead s.devAddr n (nextAnswer s).block) (takeAnswer s)))
      else raise .protocolError (clearRx (emit (.blockRead s.devAddr n (nextAnswer s).block) (takeAnswer s))) := by
  have ends := blockItem_cases n s
  rw [answeredBlock_eq _ hlen] at ends
  rcases ends with ⟨h, -⟩ | ⟨c, -, h, -⟩ | ⟨-, -, h, e⟩ | ⟨-, -, h, e⟩
  · simp [ha] at h
  · simp [hf] at h
  · rw [e, if_neg h]
  · rw [e, if_pos h]

end

/-! ### A poll item -/

/-- The attempts a poll has made before the write that comes next (R141). -/
def attemptCount (s : State) : Half := if s.ustep.sub = .opening then 0#16 else s.pollcnt

/-- The write of an attempt has gone out (R141). -/
def attemptWritten (s : State) : State :=
  { commandWritten .rdCmdReg s with ustep := ⟨s.ustep.item, .read⟩, pollcnt := attemptCount s }

section
variable {i : Instr} {s : State}

/-- A poll item of POLL, RSTCH or FETCH is one step of `poll()`, which differs in its two ends alone (R140). -/
theorem exec_of_pollItem (wf : i.wellFormed = true) (hp : isPollItem i s.ustep.item = true) (ha : s.abortPend = false) :
    exec i s = .next (pollStep s.ustep.item (cleanupOf i) (readyAt i s.ustep) s) := by
  obtain ⟨m, sub, hu⟩ : ∃ m sub, s.ustep = ⟨m, sub⟩ := ⟨_, _, rfl⟩
  rw [hu] at hp ⊢
  cases i with
  | poll =>
    obtain rfl : m = 0 := by simpa [isPollItem] using hp
    simp only [exec, execPoll, hu]
    rfl
  | rstch ch =>
    obtain rfl : m = 2 := by simpa [isPollItem] using hp
    obtain ⟨c, hc, -⟩ := channelOf_of_legal (rstch_wellFormed_iff.1 wf)
    simp only [exec, execRstch, hc, hu, pollAfterWait, checkAbort, ha]
    rfl
  | fetch a n =>
    have hm : m = 1 ∨ m = 3 := by simpa [isPollItem] using hp
    obtain ⟨k, hk, -⟩ := commandOf_of_legal (fetch_wellFormed_iff.1 wf)
    rcases hm with rfl | rfl <;>
    · simp only [exec, execFetch, hk, hu, pollAfterWait, checkAbort, ha]
      rfl
  | _ => simp [isPollItem] at hp

theorem attemptWrite_of_ok (ha : s.abortPend = false) (hf : (nextAnswer s).failure = none) (n : Nat)
    (cleanup : State → State) : attemptWrite n cleanup s = gotoSub n .read (commandWritten .rdCmdReg s) :=
  send_of_ok ha hf .rdCmdReg

theorem exec_attemptWrite (wf : i.wellFormed = true) (hp : isPollItem i s.ustep.item = true) (ha : s.abortPend = false)
    (hf : (nextAnswer s).failure = none) (hs : s.ustep.sub ≠ .read) : exec i s = .next (attemptWritten s) := by
  rw [exec_of_pollItem wf hp ha]
  cases h : s.ustep.sub with
  | opening =>
    simp only [pollStep, h, attemptWrite_of_ok (s := clearCount s) ha hf, attemptWritten, commandWritten, attemptCount,
      takeAnswer_eq]
    rfl
  | write =>
    simp only [pollStep, h, attemptWrite_of_ok ha hf, attemptWritten, commandWritten, attemptCount, takeAnswer_eq]
    rfl
  | read => exact absurd h hs

theorem exec_attemptRead (wf : i.wellFormed = true) (hp : isPollItem i s.ustep.item = true) (ha : s.abortPend = false)
    (hf : (nextAnswer s).failure = none) (hs : s.ustep.sub = .read) : exec i s = .next (attemptEnd i (byteCounted s)) := by
  rw [exec_of_pollItem wf hp ha]
  simp [pollStep, hs, attemptRead, readReg_of_ok ha hf, attemptResult, attemptEnd, byteCounted, byteLoaded]

end

/-! ### The states after an item, register by register -/

theorem commandWritten_eq (k : Command) (s : State) :
    commandWritten k s = { takeAnswer s with
      trace := s.trace ++ [.regWrite s.devAddr s.cfg.cmdReg (s.cfg.cmdByte.get (commandIndex k))] } := by
  simp [commandWritten, emit, commandByte]

theorem byteLoaded_eq (s : State) :
    byteLoaded s = { takeAnswer s with
      trace := s.trace ++ [.regRead s.devAddr s.cfg.cmdReg (nextAnswer s).byte],
      cmdval := (nextAnswer s).byte, cmdvalV := true } := by
  simp [byteLoaded, loadCmdval, emit]

theorem byteCounted_eq (s : State) :
    byteCounted s = { takeAnswer s with
      trace := s.trace ++ [.regRead s.devAddr s.cfg.cmdReg (nextAnswer s).byte],
      cmdval := (nextAnswer s).byte, cmdvalV := true, rdy := readyBit (nextAnswer s).byte, rdyV := true,
      pollcnt := bumpCount s.pollcnt } := by
  simp [byteCounted, byteLoaded_eq, countAttempt, loadRdy]

theorem attemptWritten_eq (s : State) :
    attemptWritten s = { takeAnswer s with
      trace := s.trace ++ [.regWrite s.devAddr s.cfg.cmdReg (s.cfg.cmdByte.get 3)], ustep := ⟨s.ustep.item, .read⟩,
      pollcnt := if s.ustep.sub = .opening then 0#16 else s.pollcnt } := by
  rw [attemptWritten, commandWritten_eq]; rfl

/-- Of the operations with a poll only FETCH invalidates anything as it ends with an error: the buffer (R157). -/
theorem cleanupOf_of_pollItem {i : Instr} {n : Nat} (h : isPollItem i n = true) (s : State) :
    cleanupOf i s = { s with rxbuf := if isFetch i then [] else s.rxbuf } := by
  cases i with
  | poll | rstch | fetch => rfl
  | _ => simp [isPollItem] at h

theorem attemptEnd_of_ready {i : Instr} {s : State} (h : s.rdy = true) : attemptEnd i s = readyAt i s.ustep s :=
  if_pos h

theorem attemptEnd_of_exhausted {i : Instr} {s : State} (h : s.rdy = false) (hx : s.cfg.maxPoll ≠ 0#16)
    (hc : s.pollcnt = s.cfg.maxPoll) : attemptEnd i s = raise .operationTimedOut (cleanupOf i s) := by
  simp [attemptEnd, h, (pollExhausted_iff _ _).2 ⟨hx, hc⟩]

theorem attemptEnd_of_goesOn {i : Instr} {s : State} (h : s.rdy = false)
    (hx : ¬(s.cfg.maxPoll ≠ 0#16 ∧ s.pollcnt = s.cfg.maxPoll)) : attemptEnd i s = gotoSub s.ustep.item .write s := by
  simp [attemptEnd, h, mt (pollExhausted_iff _ _).1 hx]

/-! ### The obligations about single steps -/

/-- Settles O16: the write of the indexed command, then the end of the wait with no abort to honour. -/
theorem sendcmdWritesThenCompletes : Obligations.SendcmdWritesThenCompletes := by
  intro s a h ha
  obtain ⟨k, hk, index⟩ := commandOf_of_legal h
  refine ⟨fun hi hf => ?_, fun hi => ?_⟩
  · simp only [exec, execSendcmd, hk, hi, send_of_ok ha hf, commandWritten_eq, index]
    rfl
  · simp only [exec, execSendcmd, hk, hi, checkAbort, ha]
    rfl

/-- Settles O17: the two items of `rdcreg()`, completing with the byte loaded. -/
theorem rdcregFetchesTheByte : Obligations.RdcregFetchesTheByte := by
  intro s ha hf
  refine ⟨fun hi => (rdcregStep_write ha hf _ hi).trans ?_, fun hi => (rdcregStep_read ha hf _ hi).trans ?_⟩
  · rw [commandWritten_eq]; rfl
  · rw [byteLoaded_eq]; rfl

/-- Settles O18: bit 5 is the mask 0x20. -/
theorem isrdyExtractsBitFive : Obligations.IsrdyExtractsBitFive := by
  intro s ha hf
  refine ⟨fun hi => (rdcregStep_write ha hf _ hi).trans ?_, fun hi => (rdcregStep_read ha hf _ hi).trans ?_⟩
  · rw [commandWritten_eq]; rfl
  · rw [byteLoaded_eq, ← readyBit_eq_mask]; rfl

/-- Settles O19: the field is the one at bit 3, and its error is numbered as it is. -/
theorem geterrDecodesTheErrorBits : Obligations.GeterrDecodesTheErrorBits := by
  intro s ha hf
  refine ⟨fun hi => (rdcregStep_write ha hf _ hi).trans ?_, fun hi => ⟨errField (nextAnswer s).byte,
    errCodeOf (nextAnswer s).byte, errField_toNat _, errorCodeNumber_errCodeOf _, (rdcregStep_read ha hf _ hi).trans ?_⟩⟩
  · rw [commandWritten_eq]; rfl
  · rw [byteLoaded_eq]; rfl

/-- Settles O20: the write half, and the three ends of the read half. -/
theorem pollAttemptDecides : Obligations.PollAttemptDecides := by
  intro s i wf hp ha hf
  refine ⟨fun hs => ?_, fun hs => ⟨bumpCount s.pollcnt, bumpCount_toNat_eq_min _, fun hi hv => ?_, fun hv hx => ?_,
    fun hv hx => ?_⟩⟩
  · rw [exec_attemptWrite wf hp ha hf hs, attemptWritten_eq]
  · subst hi
    have rdy := readyBit_eq_true_iff.2 hv
    rw [exec_attemptRead wf hp ha hf hs, attemptEnd_of_ready (s := byteCounted s) rdy, byteCounted_eq, rdy]
    rfl
  · have rdy := readyBit_eq_false_iff.2 hv
    rw [exec_attemptRead wf hp ha hf hs, attemptEnd_of_exhausted (s := byteCounted s) rdy (by simpa [byteCounted_eq] using hx.1)
      (by simpa [byteCounted_eq] using hx.2), cleanupOf_of_pollItem hp, byteCounted_eq, rdy, takeAnswer_eq]
    rfl
  · have rdy := readyBit_eq_false_iff.2 hv
    rw [exec_attemptRead wf hp ha hf hs, attemptEnd_of_goesOn (s := byteCounted s) rdy (by simpa [byteCounted_eq] using hx),
      byteCounted_eq, rdy, takeAnswer_eq]
    rfl

/-- Settles O21: two writes, and the two halves of an attempt. -/
theorem rstchStepsAndCompletes : Obligations.RstchStepsAndCompletes := by
  intro s ch h ha hf
  obtain ⟨c, hc, index⟩ := channelOf_of_legal h
  have wf : (Instr.rstch ch).wellFormed = true := rstch_wellFormed_iff.2 h
  have poll : s.ustep.item = 2 → isPollItem (.rstch ch) s.ustep.item = true := fun hi => by simp [isPollItem, hi]
  refine ⟨fun hi => ?_, fun hi => ?_, fun hi hs => ?_, fun hu hv => ⟨_, bumpCount_toNat_eq_min s.pollcnt, ?_⟩⟩
  · simp only [exec, execRstch, hc, hi, send_of_ok ha hf, commandWritten_eq]
    rfl
  · simp only [exec, execRstch, hc, hi, send_of_ok ha hf, commandWritten_eq, index]
    rfl
  · rw [exec_attemptWrite wf (poll hi) ha hf hs, attemptWritten_eq, hi]
  · have rdy := readyBit_eq_true_iff.2 hv
    rw [exec_attemptRead wf (poll (by rw [hu])) ha hf (by rw [hu]), attemptEnd_of_ready (s := byteCounted s) rdy,
      byteCounted_eq, rdy]
    rfl

/-- Settles O22: an answer within `RXBUF_CAP` is returned whole, so its length is the block's own. -/
theorem fetchBlockReadDecides : Obligations.FetchBlockReadDecides := by
  intro s a n h hi ha hf hlen
  obtain ⟨k, hk, -⟩ := commandOf_of_legal h
  have step : exec (.fetch a n) s = .next (blockItem n s) := by simp only [exec, execFetch, hk, hi]
  rw [step, blockItem_of_ok ha hf n hlen, takeAnswer_eq]
  exact ⟨fun hn => by rw [if_pos hn]; rfl, fun hn => by rw [if_neg hn]; rfl⟩

/-- Settles O23: two writes, and the two halves of an attempt. -/
theorem fetchStepsToTheBlockRead : Obligations.FetchStepsToTheBlockRead := by
  intro s a n h ha hf
  obtain ⟨k, hk, index⟩ := commandOf_of_legal h
  have wf : (Instr.fetch a n).wellFormed = true := fetch_wellFormed_iff.2 h
  have poll : s.ustep.item = 1 ∨ s.ustep.item = 3 → isPollItem (.fetch a n) s.ustep.item = true := fun hi => by
    simpa [isPollItem] using hi
  refine ⟨fun hi => ?_, fun hi => ?_, fun hi hs => ?_, fun hi hs hv => ⟨_, bumpCount_toNat_eq_min s.pollcnt, ?_⟩⟩
  · simp only [exec, execFetch, hk, hi, send_of_ok ha hf, commandWritten_eq]
    rfl
  · simp only [exec, execFetch, hk, hi, send_of_ok ha hf, commandWritten_eq, index]
    rfl
  · rw [exec_attemptWrite wf (poll hi) ha hf hs, attemptWritten_eq]
  · have rdy := readyBit_eq_true_iff.2 hv
    rw [exec_attemptRead wf (poll hi) ha hf hs, attemptEnd_of_ready (s := byteCounted s) rdy,
      byteCounted_eq, rdy]
    rcases hi with hi | hi <;> simp [readyAt, gotoItem, setPhase, phaseAt, hi]

/-! ### Running an operation in flight -/

section
variable {M : Host.Core} {s t : M.State}

theorem run_succ (h : M.step s = .next t) (k : Nat) : M.run (k + 1) s = M.run k t := by
  simp only [Host.Core.run, h]

theorem run_trans {m : Nat} (h : M.run m s = .next t) (k : Nat) : M.run (m + k) s = M.run k t := by
  induction m generalizing s with
  | zero => cases h; rw [Nat.zero_add]
  | succ m ih =>
    cases hs : M.step s with
    | next u =>
      rw [run_succ hs] at h
      rw [Nat.add_right_comm, run_succ hs, ih h]
    | fault r | refused r => simp [Host.Core.run, hs] at h

end

theorem step_of_inFlight {i : Instr} {s : State} (h : s.InFlight i) : step s = exec i (clearDone s) := by
  obtain ⟨quiet, -⟩ := stepRunsTheDecodedOperation s i h.busy h.decoded
  exact quiet h.hostQuiet

/-- A command write between the polls has gone out: the operation is at item `n` (R131, R133). -/
def commandSent (k : Fin 9) (p : Phase) (n : Nat) (rest : List DevAnswer) (s : State) : State :=
  { s with
    done := false, dev := rest, phase := p, ustep := ⟨n, .opening⟩
    trace := s.trace ++ [.regWrite s.devAddr s.cfg.cmdReg (s.cfg.cmdByte.get k)] }

/-- An attempt has gone out and its byte is counted: what follows the byte is still to come (R138, R140). -/
def attemptMade (p : DevAnswer × DevAnswer) (rest : List DevAnswer) (s : State) : State :=
  { s with
    done := false, dev := rest, ustep := ⟨s.ustep.item, .read⟩, pollcnt := bumpCount (attemptCount s)
    cmdval := p.2.byte, cmdvalV := true, rdy := readyBit p.2.byte, rdyV := true
    trace := s.trace ++ attemptEvents s [p] }

section
variable {i : Instr} {s : State} {d : DevAnswer} {p : DevAnswer × DevAnswer} {rest : List DevAnswer}

theorem step_command {k : Fin 9} {q : Phase} {n : Nat} (h : s.InFlight i) (hd : s.dev = d :: rest)
    (he : exec i (clearDone s) = .next { takeAnswer (clearDone s) with
      trace := s.trace ++ [.regWrite s.devAddr s.cfg.cmdReg (s.cfg.cmdByte.get k)], phase := q, ustep := ⟨n, .opening⟩ }) :
    step s = .next (commandSent k q n rest s) := by
  rw [step_of_inFlight h, he, takeAnswer_of_dev (s := clearDone s) hd]
  rfl

/-- Two steps make an attempt (R141). -/
theorem run_attempt (wf : i.wellFormed = true) (h : s.InFlight i) (hp : isPollItem i s.ustep.item = true)
    (hs : s.ustep.sub ≠ .read) (hd : s.dev = p.1 :: p.2 :: rest) (h1 : p.1.failure = none) (h2 : p.2.failure = none) :
    Host.Core.run core 2 s = .next (attemptEnd i (attemptMade p rest s)) := by
  have first : nextAnswer (clearDone s) = p.1 := nextAnswer_of_dev (s := clearDone s) hd
  have write : step s = .next (attemptWritten (clearDone s)) := by
    rw [step_of_inFlight h]
    exact exec_attemptWrite wf hp h.noAbort (by rw [first, h1]) hs
  have written : attemptWritten (clearDone s) = { s with
      done := false, dev := p.2 :: rest, ustep := ⟨s.ustep.item, .read⟩, pollcnt := attemptCount s
      trace := s.trace ++ [.regWrite s.devAddr s.cfg.cmdReg (s.cfg.cmdByte.get 3)] } := by
    rw [attemptWritten_eq, takeAnswer_of_dev (s := clearDone s) hd]
    rfl
  have counted : byteCounted (clearDone (attemptWritten (clearDone s))) = attemptMade p rest s := by
    rw [written, byteCounted_eq, takeAnswer_of_dev (d := p.2) (rest := rest) rfl]
    simp [attemptMade, attemptEvents, clearDone, nextAnswer]
  have flight : (attemptWritten (clearDone s)).InFlight i := written ▸ ⟨h.busy, h.decoded, h.noAbort, h.hostQuiet⟩
  have second : nextAnswer (clearDone (attemptWritten (clearDone s))) = p.2 := by rw [written]; rfl
  have read : step (attemptWritten (clearDone s)) = .next (attemptEnd i (attemptMade p rest s)) := by
    rw [step_of_inFlight flight, exec_attemptRead (s := clearDone (attemptWritten (clearDone s))) wf hp flight.noAbort
      (by rw [second, h2]) rfl, counted]
  exact (run_succ (M := core) write 1).trans (run_succ (M := core) read 0)

/-- A command write of `i` is done and the first attempt of the poll after it, item `n`, was ready. -/
def commandPolled (i : Instr) (k : Fin 9) (q : Phase) (n : Nat) (p : DevAnswer × DevAnswer) (rest : List DevAnswer)
    (s : State) : State :=
  readyAt i ⟨n, .read⟩ (attemptMade p rest (commandSent k q n (p.1 :: p.2 :: rest) s))

theorem run_command_poll {k : Fin 9} {q : Phase} {n : Nat} (wf : i.wellFormed = true) (h : s.InFlight i)
    (hp : isPollItem i n = true) (hd : s.dev = d :: p.1 :: p.2 :: rest)
    (he : exec i (clearDone s) = .next { takeAnswer (clearDone s) with
      trace := s.trace ++ [.regWrite s.devAddr s.cfg.cmdReg (s.cfg.cmdByte.get k)], phase := q, ustep := ⟨n, .opening⟩ })
    (hr : IsReady p) :
    Host.Core.run core 3 s = .next (commandPolled i k q n p rest s) := by
  obtain ⟨h1, h2, bit⟩ := hr
  have flight : (commandSent k q n (p.1 :: p.2 :: rest) s).InFlight i := ⟨h.busy, h.decoded, h.noAbort, h.hostQuiet⟩
  have poll := run_attempt wf flight hp (by simp [commandSent]) rfl h1 h2
  rw [attemptEnd_of_ready (s := attemptMade p rest _) (readyBit_eq_true_iff.2 bit)] at poll
  exact (run_succ (M := core) (step_command h hd he) 2).trans poll

/-- FETCH goes on to the item after the poll, and has written no data register yet (R156, R165). -/
@[simp] theorem commandPolled_fetch_fields (a b : Byte) (k : Fin 9) (q : Phase) (n : Nat) (p : DevAnswer × DevAnswer)
    (rest : List DevAnswer) (s : State) :
    (commandPolled (.fetch a b) k q n p rest s).cfg = s.cfg ∧
    (commandPolled (.fetch a b) k q n p rest s).devAddr = s.devAddr ∧
    (commandPolled (.fetch a b) k q n p rest s).ustep = ⟨n + 1, .opening⟩ ∧
    (commandPolled (.fetch a b) k q n p rest s).phase = phaseAt (.fetch a b) (n + 1) ∧
    (commandPolled (.fetch a b) k q n p rest s).pollcnt = 1#16 ∧
    (commandPolled (.fetch a b) k q n p rest s).pkt = s.pkt ∧
    (commandPolled (.fetch a b) k q n p rest s).pktV = s.pktV ∧
    (commandPolled (.fetch a b) k q n p rest s).par = s.par ∧
    (commandPolled (.fetch a b) k q n p rest s).parV = s.parV ∧
    (commandPolled (.fetch a b) k q n p rest s).dev = rest ∧
    (commandPolled (.fetch a b) k q n p rest s).trace =
      s.trace ++ [.regWrite s.devAddr s.cfg.cmdReg (s.cfg.cmdByte.get k)] ++ attemptEvents s [p] :=
  ⟨rfl, rfl, rfl, rfl, rfl, rfl, rfl, rfl, rfl, rfl, rfl⟩

section
variable {a n : Byte} (h : s.InFlight (.fetch a n))
include h

theorem commandPolled_fetch_inFlight (k : Fin 9) (q : Phase) (m : Nat) :
    (commandPolled (.fetch a n) k q m p rest s).InFlight (.fetch a n) :=
  ⟨h.busy, h.decoded, h.noAbort, h.hostQuiet⟩

/-- The write and the first poll of FETCH (R156). -/
theorem run_fetch_announce (ha : a.toNat < 9) (hi : s.ustep.item = 0) (hd : s.dev = d :: p.1 :: p.2 :: rest)
    (hf : d.failure = none) (hr : IsReady p) :
    Host.Core.run core 3 s = .next (commandPolled (.fetch a n) 0 .cmdPending 1 p rest s) := by
  have answer : nextAnswer (clearDone s) = d := nextAnswer_of_dev (s := clearDone s) hd
  obtain ⟨write, -⟩ := fetchStepsToTheBlockRead (clearDone s) a n ha h.noAbort (by rw [answer, hf])
  exact run_command_poll (fetch_wellFormed_iff.2 ha) h rfl hd (write hi) hr

/-- The data-selecting write and the second poll of FETCH (R156). -/
theorem run_fetch_select (ha : a.toNat < 9) (hi : s.ustep.item = 2) (hd : s.dev = d :: p.1 :: p.2 :: rest)
    (hf : d.failure = none) (hr : IsReady p) :
    Host.Core.run core 3 s = .next (commandPolled (.fetch a n) ⟨a.toNat, ha⟩ .opPending 3 p rest s) := by
  have answer : nextAnswer (clearDone s) = d := nextAnswer_of_dev (s := clearDone s) hd
  obtain ⟨-, write, -⟩ := fetchStepsToTheBlockRead (clearDone s) a n ha h.noAbort (by rw [answer, hf])
  exact run_command_poll (fetch_wellFormed_iff.2 ha) h rfl hd (write hi) hr

/-- The block read of FETCH that completes it (R156). -/
theorem step_fetchBlock (ha : a.toNat < 9) (hi : s.ustep.item = 4) (hd : s.dev = d :: rest) (hf : d.failure = none)
    (hlen : d.block.length = n.toNat) :
    step s = .next (complete { s with
      done := false, dev := rest, rxbuf := d.block, trace := s.trace ++ [.blockRead s.devAddr n d.block] }) := by
  have answer : nextAnswer (clearDone s) = d := nextAnswer_of_dev (s := clearDone s) hd
  obtain ⟨block, -⟩ := fetchBlockReadDecides (clearDone s) a n ha hi h.noAbort (by rw [answer, hf]) (by rw [answer]; omega)
  rw [step_of_inFlight h, block (by rw [answer, hlen]), answer, takeAnswer_of_dev (s := clearDone s) hd]
  rfl

end

end

/-! ### The attempts of a poll -/

/-- The count after `n` attempts (R45). -/
def countAfter (n : Nat) : Half := BitVec.ofNat 16 (min n 65535)

theorem countAfter_toNat (n : Nat) : (countAfter n).toNat = min n 65535 := by
  simp [countAfter]

theorem bumpCount_countAfter (n : Nat) : bumpCount (countAfter n) = countAfter (n + 1) := by
  apply BitVec.eq_of_toNat_eq
  rw [bumpCount_toNat_eq_min, countAfter_toNat, countAfter_toNat]
  omega

/-- The count is the bound after exactly as many attempts (R140). -/
theorem countAfter_eq_iff {m : Half} {n : Nat} (h : n ≤ m.toNat) : countAfter n = m ↔ n = m.toNat := by
  rw [← BitVec.toNat_inj, countAfter_toNat]
  omega

/-- The attempts `early` of a poll have gone on, and the byte of the attempt `last` is counted. -/
def attemptsMade (early : List (DevAnswer × DevAnswer)) (last : DevAnswer × DevAnswer) (rest : List DevAnswer)
    (s : State) : State :=
  { attemptMade last rest s with
    pollcnt := countAfter (early.length + 1), trace := s.trace ++ attemptEvents s (early ++ [last]) }

theorem attemptsMade_nil {s : State} (h : s.ustep.sub = .opening) (last : DevAnswer × DevAnswer) (rest : List DevAnswer) :
    attemptsMade [] last rest s = attemptMade last rest s := by
  have one : bumpCount 0#16 = countAfter 1 := rfl
  simp [attemptsMade, attemptMade, attemptCount, h, one]

theorem attemptsMade_concat (early : List (DevAnswer × DevAnswer)) (p last : DevAnswer × DevAnswer)
    (rest' rest : List DevAnswer) (s : State) :
    attemptsMade (early ++ [p]) last rest s =
      attemptMade last rest (gotoSub s.ustep.item .write (attemptsMade early p rest' s)) := by
  simp [attemptsMade, attemptMade, attemptCount, gotoSub, attemptEvents, bumpCount_countAfter]

/-- A poll begun at its opening, by induction on the attempts that go on: each leads to the write of the next (R140). -/
theorem run_attempts {i : Instr} {s : State} (wf : i.wellFormed = true) (h : s.InFlight i)
    (hp : isPollItem i s.ustep.item = true) (hs : s.ustep.sub = .opening) {early : List (DevAnswer × DevAnswer)}
    {last : DevAnswer × DevAnswer} {rest : List DevAnswer} (hd : s.dev = attemptScript (early ++ [last]) ++ rest)
    (hearly : ∀ p ∈ early, NotReady p) (h1 : last.1.failure = none) (h2 : last.2.failure = none)
    (bound : s.cfg.maxPoll ≠ 0#16 → early.length + 1 ≤ s.cfg.maxPoll.toNat) :
    Host.Core.run core (2 * (early.length + 1)) s = .next (attemptEnd i (attemptsMade early last rest s)) := by
  induction early using List.reverseRecOn generalizing last rest with
  | nil =>
    rw [attemptsMade_nil hs]
    exact run_attempt wf h hp (by simp [hs]) (by simpa [attemptScript] using hd) h1 h2
  | append_singleton early p ih =>
    have length : (early ++ [p]).length = early.length + 1 := by simp
    rw [length] at bound ⊢
    obtain ⟨hp1, hp2, bit⟩ := hearly p (by simp)
    have before := ih (last := p) (rest := last.1 :: last.2 :: rest) (by simpa [attemptScript] using hd)
      (fun q hq => hearly q (by simp [hq])) hp1 hp2 (fun hm => by have := bound hm; omega)
    have goesOn : ¬(s.cfg.maxPoll ≠ 0#16 ∧ countAfter (early.length + 1) = s.cfg.maxPoll) := by
      rintro ⟨hm, hc⟩
      have := bound hm
      have := (countAfter_eq_iff (by omega)).1 hc
      omega
    rw [attemptEnd_of_goesOn (s := attemptsMade early p _ s) (readyBit_eq_false_iff.2 bit) goesOn] at before
    rw [Nat.mul_succ, run_trans (M := core) before, attemptsMade_concat early p last (last.1 :: last.2 :: rest)]
    exact run_attempt wf ⟨h.busy, h.decoded, h.noAbort, h.hostQuiet⟩ hp (by simp [gotoSub]) rfl h1 h2

/-! ### The obligations about whole operations -/

/-- Settles O24: POLL completes at the attempt that is ready. -/
theorem pollReturnsAtTheFirstReady : Obligations.PollReturnsAtTheFirstReady := by
  intro s early last rest h hu hd hearly ⟨h1, h2, bit⟩ bound
  refine ⟨_, run_attempts rfl h (by rw [hu]; rfl) (by rw [hu]) hd hearly h1 h2 bound, ?_⟩
  have rdy := readyBit_eq_true_iff.2 bit
  rw [attemptEnd_of_ready (s := attemptsMade early last rest s) rdy]
  exact ⟨rfl, rfl, rfl, countAfter_toNat _, rdy, rfl, rfl, rfl, rfl, rfl, rfl⟩

/-- Settles O25: the last of the `MAX_POLL` attempts exhausts the bound. -/
theorem pollTimesOutAfterTheBound : Obligations.PollTimesOutAfterTheBound := by
  intro s i n ps rest wf hp h hu hd hps hm hlen
  have hne : ps ≠ [] := fun he => hm (BitVec.eq_of_toNat_eq (by simpa [he] using hlen.symm))
  obtain ⟨early, last, rfl⟩ := List.eq_nil_or_concat' ps |>.resolve_left hne
  rw [List.length_append, List.length_singleton] at hlen ⊢
  obtain ⟨h1, h2, bit⟩ := hps last (by simp)
  have item : s.ustep.item = n := by rw [hu]
  have count : countAfter (early.length + 1) = s.cfg.maxPoll := (countAfter_eq_iff hlen.le).2 hlen
  refine ⟨_, run_attempts wf h (item ▸ hp) (by rw [hu]) hd (fun p hp => hps p (by simp [hp])) h1 h2 (fun _ => hlen.le), ?_⟩
  have rdy := readyBit_eq_false_iff.2 bit
  rw [attemptEnd_of_exhausted (s := attemptsMade early last rest s) rdy hm count, cleanupOf_of_pollItem hp]
  exact ⟨rfl, rfl, rfl, rfl, count, rdy, rfl, rfl, rfl, rfl⟩

/-- Settles O26: an unbounded poll is never exhausted. -/
theorem unboundedPollNeverEnds : Obligations.UnboundedPollNeverEnds := by
  intro s ps rest h hu hd hps hm hne
  obtain ⟨early, last, rfl⟩ := List.eq_nil_or_concat' ps |>.resolve_left hne
  rw [List.length_append, List.length_singleton]
  obtain ⟨h1, h2, bit⟩ := hps last (by simp)
  refine ⟨_, run_attempts rfl h (by rw [hu]; rfl) (by rw [hu]) hd (fun p hp => hps p (by simp [hp])) h1 h2
    (fun hm' => absurd hm hm'), ?_⟩
  have rdy := readyBit_eq_false_iff.2 bit
  rw [attemptEnd_of_goesOn (s := attemptsMade early last rest s) rdy (fun hx => hx.1 hm)]
  have item : s.ustep.item = 0 := by rw [hu]
  exact ⟨⟨h.busy, h.decoded, h.noAbort, h.hostQuiet⟩, congrArg (Ustep.mk · .write) item, countAfter_toNat _, rdy, rfl, rfl⟩

/-- Settles O27: a command write, and a command write whose poll is ready at once. -/
theorem rstchRunsWriteWritePoll : Obligations.RstchRunsWriteWritePoll := by
  intro s ch h d1 d2 att rest hs hu hd hd1 hd2 ready
  obtain ⟨write, -⟩ := rstchStepsAndCompletes (clearDone s) ch h hs.noAbort
    (by rw [nextAnswer_of_dev (s := clearDone s) hd, hd1])
  have first := step_command hs hd (write (by simp [hu]))
  have flight : (commandSent 0 .cmdPending 1 (d2 :: att.1 :: att.2 :: rest) s).InFlight (.rstch ch) :=
    ⟨hs.busy, hs.decoded, hs.noAbort, hs.hostQuiet⟩
  obtain ⟨-, reset, -⟩ := rstchStepsAndCompletes
    (clearDone (commandSent 0 .cmdPending 1 (d2 :: att.1 :: att.2 :: rest) s)) ch h hs.noAbort hd2
  have second := run_command_poll (rstch_wellFormed_iff.2 h) flight rfl rfl (reset rfl) ready
  obtain ⟨-, -, bit⟩ := ready
  refine ⟨_, (run_succ (M := core) first 3).trans second, rfl, rfl, rfl, rfl, readyBit_eq_true_iff.2 bit, rfl, rfl, ?_⟩
  simp [commandPolled, readyAt, attemptMade, attemptEvents, commandSent]

/-- Settles O28: two command writes, each with a poll that is ready at once, and the block read. -/
theorem fetchRunsToTheBlock : Obligations.FetchRunsToTheBlock := by
  intro s a n h d1 d2 d3 p q rest hs hu hd hd1 hd2 hd3 hp hq hlen
  have first := run_fetch_announce hs h (by rw [hu]) hd hd1 hp
  have flight := commandPolled_fetch_inFlight (p := p) (rest := d2 :: q.1 :: q.2 :: d3 :: rest) hs 0 .cmdPending 1
  have second := run_fetch_select flight h rfl rfl hd2 hq
  have flight := commandPolled_fetch_inFlight (p := q) (rest := d3 :: rest) flight ⟨a.toNat, h⟩ .opPending 3
  have third := step_fetchBlock flight h rfl rfl hd3 hlen
  refine ⟨_, (run_trans (M := core) first 4).trans ((run_trans (M := core) second 1).trans (run_succ (M := core) third 0)),
    ?_⟩
  simp [phaseAt, attemptEvents]

end Sys2Proof.Machine
end

section
/-! PROOFS of the family 41_codec.md. First the numbers: a little-endian field as a sum, its bytes as remainder and quotient, and
that the two packet directions undo each other. Then one equation per operation and outcome, and the PUSHBs that copy bytes
into the buffer. -/

namespace Sys2Proof.Machine

/-! ### Operation words as a disjunction of shifted fields -/

/-- `(opc << 24) | (a << 16) | b` (R120), as the encodings of 41_codec.md write it. -/
theorem pack_eq_or (o a : Byte) (b : Half) :
    pack o a b = o.setWidth 32 <<< 24 ||| a.setWidth 32 <<< 16 ||| b.setWidth 32 := by
  apply BitVec.eq_of_getLsbD_eq
  intro i hi
  rw [getLsbD_pack]
  by_cases low : i < 16
  · simp [low, hi, show i < 24 by omega]
  · have beyondB : b.getLsbD i = false := BitVec.getLsbD_of_ge b i (by omega)
    by_cases mid : i < 24
    · simp [low, mid, hi, beyondB]
    · have beyondA : a.getLsbD (i - 16) = false := BitVec.getLsbD_of_ge a _ (by omega)
      simp [low, mid, hi, beyondB, beyondA]

/-! ### Little-endian fields -/

/-- A byte moved up inside a word that has room for it. -/
theorem toNat_byte_shiftLeft (b : Byte) {w k : Nat} (h : 8 + k ≤ w) :
    (b.setWidth w <<< k).toNat = 2 ^ k * b.toNat := by
  have fits : b.toNat * 2 ^ k < 2 ^ w :=
    calc b.toNat * 2 ^ k < 2 ^ 8 * 2 ^ k := Nat.mul_lt_mul_of_pos_right b.isLt (by positivity)
      _ = 2 ^ (8 + k) := (Nat.pow_add 2 8 k).symm
      _ ≤ 2 ^ w := Nat.pow_le_pow_right (by omega) h
  rw [BitVec.toNat_shiftLeft, BitVec.toNat_setWidth_of_le (by omega), Nat.shiftLeft_eq, Nat.mod_eq_of_lt fits, Nat.mul_comm]

/-- Putting a byte above what stands below bit `k` adds it. -/
theorem toNat_or_byte_shiftLeft {w k n : Nat} {x : BitVec w} (b : Byte) (hk : 8 + k ≤ w) (hx : x.toNat = n) (hn : n < 2 ^ k) :
    (x ||| b.setWidth w <<< k).toNat = n + 2 ^ k * b.toNat := by
  rw [BitVec.toNat_or, hx, toNat_byte_shiftLeft b hk, Nat.or_comm, ← Nat.two_pow_add_eq_or_of_lt hn, Nat.add_comm]

theorem le16_toNat (lo hi : Byte) : (le16 lo hi).toNat = lo.toNat + 256 * hi.toNat :=
  toNat_or_byte_shiftLeft hi (by omega) (BitVec.toNat_setWidth_of_le (by omega)) lo.isLt

theorem le32_toNat (b0 b1 b2 b3 : Byte) :
    (le32 b0 b1 b2 b3).toNat = b0.toNat + 256 * b1.toNat + 65536 * b2.toNat + 16777216 * b3.toNat := by
  have h1 := toNat_or_byte_shiftLeft (w := 32) (k := 8) b1 (by omega) (BitVec.toNat_setWidth_of_le (by omega)) b0.isLt
  have h2 := toNat_or_byte_shiftLeft (k := 16) b2 (by omega) h1 (by omega)
  exact toNat_or_byte_shiftLeft (k := 24) b3 (by omega) h2 (by omega)

theorem lowByte_toNat (x : Half) : (lowByte x).toNat = x.toNat % 256 := by
  have mask : x.toNat &&& 255 = x.toNat % 256 := Nat.and_two_pow_sub_one_eq_mod x.toNat 8
  rw [lowByte, BitVec.toNat_setWidth, BitVec.toNat_and, BitVec.toNat_ofNat, show 255 % 2 ^ 16 = 255 from rfl, mask]
  omega

theorem highByte_toNat (x : Half) : (highByte x).toNat = x.toNat / 256 := by
  have shifted : highByte x = lowByte (x >>> 8) := rfl
  rw [shifted, lowByte_toNat, BitVec.toNat_ushiftRight, Nat.shiftRight_eq_div_pow]
  omega

@[simp] theorem le16_lowByte_highByte (x : Half) : le16 (lowByte x) (highByte x) = x :=
  BitVec.eq_of_toNat_eq (by rw [le16_toNat, lowByte_toNat, highByte_toNat]; omega)

@[simp] theorem lowByte_le16 (lo hi : Byte) : lowByte (le16 lo hi) = lo :=
  BitVec.eq_of_toNat_eq (by rw [lowByte_toNat, le16_toNat]; omega)

@[simp] theorem highByte_le16 (lo hi : Byte) : highByte (le16 lo hi) = hi :=
  BitVec.eq_of_toNat_eq (by rw [highByte_toNat, le16_toNat]; omega)

/-! ### The parameter packet (R108) -/

/-- Byte 2j is the low byte of field j, byte 2j + 1 its high byte (R186). -/
theorem bytesOfParams_getD (p : Params) (j : ParIndex) :
    (bytesOfParams p).toList.getD (2 * parNumber j) 0#8 = lowByte (parGet p j) ∧
      (bytesOfParams p).toList.getD (2 * parNumber j + 1) 0#8 = highByte (parGet p j) := by
  cases j <;> exact ⟨rfl, rfl⟩

/-- Decoding undoes encoding (R188). -/
theorem paramsOf_bytesOfParams (p : Params) : paramsOf (bytesOfParams p).toList = p := by
  simp [paramsOf, bytesOfParams, byteAt]

/-- Encoding undoes decoding, of eight bytes (R188). -/
theorem bytesOfParams_paramsOf {B : List Byte} (h : B.length = paramsLength) : (bytesOfParams (paramsOf B)).toList = B := by
  match B, h with
  | [_, _, _, _, _, _, _, _], _ => simp [paramsOf, bytesOfParams, byteAt]

/-! ### The parameter index and the valid bits (R41, R174) -/

theorem parNumber_inj {i j : ParIndex} : parNumber i = parNumber j ↔ i = j := by
  cases i <;> cases j <;> simp [parNumber]

/-- The number of the field an index names is that index (R41). -/
theorem parIndexOf_number {a : Byte} {i : ParIndex} (h : parIndexOf a = some i) : parNumber i = a.toNat := by
  unfold parIndexOf at h
  split at h <;> cases h <;> exact ‹a.toNat = _›.symm

/-- A legal parameter index names the field of that number (R174). -/
theorem parIndexOf_of_legal {a : Byte} (h : a.toNat < 4) : ∃ i, parIndexOf a = some i ∧ parNumber i = a.toNat := by
  obtain ⟨i, hi⟩ := Option.ne_none_iff_exists'.1 (mt (parIndexOf_eq_none a).1 (by omega))
  exact ⟨i, hi, parIndexOf_number hi⟩

theorem getLsbD_setParValid (v : BitVec 4) (i : ParIndex) (k : Nat) :
    (setParValid v i).getLsbD k = (v.getLsbD k || k == parNumber i) := by
  have inRange : parNumber i < 4 := by cases i <;> decide
  have bit : (1#4 <<< parNumber i).getLsbD k = (k == parNumber i) := by
    rw [← BitVec.twoPow_eq, BitVec.getLsbD_twoPow]
    simp [inRange, eq_comm, Bool.beq_eq_decide_eq]
  rw [setParValid, BitVec.getLsbD_or, bit]

theorem allParValid_iff {v : BitVec 4} : allParValid v = true ↔ v = 0b1111#4 := beq_iff_eq

/-! ### One equation per operation and outcome -/

section
variable {s : State} {v a : Byte} {x : Half} {i : ParIndex}

theorem exec_pushb_of_room (h : s.rxbuf.length < 255) :
    exec (.pushb v) s = .next (complete (loadRx (s.rxbuf ++ [v]) s)) :=
  if_neg (Nat.not_le.2 h)

theorem exec_pushb_of_full (h : s.rxbuf.length = 255) : exec (.pushb v) s = .next (raise .illegalOperation s) :=
  if_pos h.ge

theorem exec_setpar_of_legal (h : parIndexOf a = some i) :
    exec (.setpar a x) s = .next (complete (loadPar (parSet s.par i x) (setParValid s.parV i) s)) := by
  simp [exec, execSetpar, h]

theorem exec_decdata_of_length (h : s.rxbuf.length = 13) :
    exec .decdata s = .next (complete (loadPkt (packetOf s.rxbuf) s)) :=
  if_neg (not_not.2 h)

theorem exec_decdata_of_wrongLength (h : s.rxbuf.length ≠ 13) :
    exec .decdata s = .next (raise .formatError (invalidatePkt s)) :=
  if_pos h

theorem exec_decpar_of_length (h : s.rxbuf.length = 8) :
    exec .decpar s = .next (complete (loadPar (paramsOf s.rxbuf) 0b1111#4 s)) :=
  if_neg (not_not.2 h)

theorem exec_decpar_of_wrongLength (h : s.rxbuf.length ≠ 8) :
    exec .decpar s = .next (raise .formatError (invalidatePar s)) :=
  if_pos h

theorem exec_encpar_of_allValid (h : s.parV = 0b1111#4) :
    exec .encpar s = .next (complete (loadTx (bytesOfParams s.par) s)) :=
  if_pos (allParValid_iff.2 h)

theorem exec_encpar_of_missing (h : s.parV ≠ 0b1111#4) :
    exec .encpar s = .next (raise .illegalOperation (invalidateTx s)) :=
  if_neg (mt allParValid_iff.1 h)

end

/-! ### Copying bytes into the buffer -/

theorem execAll_cons {i : Instr} {s t : State} (rest : List Instr) (h : exec i s = .next t) :
    execAll (i :: rest) s = execAll rest t := by
  simp [execAll, h]

theorem execAll_append {is js : List Instr} {s t : State} (h : execAll is s = .next t) :
    execAll (is ++ js) s = execAll js t := by
  induction is generalizing s with
  | nil => cases h; rfl
  | cons i is ih =>
    rw [execAll] at h
    split at h
    next u hu => rw [List.cons_append, execAll_cons _ hu, ih h]
    next => cases h
    next => cases h

/-- A PUSHB of each byte appends the bytes in order, as long as there is room for all of them (R172). -/
theorem execAll_pushes (B : List Byte) {s : State} (room : s.rxbuf.length + B.length ≤ 255) :
    ∃ t, execAll (B.map .pushb) s = .next t ∧ t.rxbuf = s.rxbuf ++ B := by
  induction B generalizing s with
  | nil => exact ⟨s, rfl, by simp⟩
  | cons v B ih =>
    rw [List.length_cons] at room
    obtain ⟨t, run, buffer⟩ := ih (s := complete (loadRx (s.rxbuf ++ [v]) s)) (by simp; omega)
    refine ⟨t, ?_, by simpa using buffer⟩
    rw [List.map_cons, execAll_cons _ (exec_pushb_of_room (by omega)), run]

/-- CLRBUF, then a PUSHB of each byte, then DECPAR: the eight bytes are decoded, whatever stood in the buffer (R188). -/
theorem execAll_copy_decpar {B : List Byte} (h : B.length = 8) (s : State) :
    ∃ u, execAll (.clrbuf :: B.map .pushb ++ [.decpar]) s = .next u ∧ u.par = paramsOf B ∧ u.parV = 0b1111#4 := by
  obtain ⟨t, run, buffer⟩ := execAll_pushes B (s := complete (clearRx s)) (by simp [h])
  have holds : t.rxbuf = B := by simpa using buffer
  refine ⟨complete (loadPar (paramsOf t.rxbuf) 0b1111#4 t), ?_, by simp [holds], by simp⟩
  rw [List.cons_append, execAll_cons (t := complete (clearRx s)) _ rfl, execAll_append run,
    execAll_cons _ (exec_decpar_of_length (by rw [holds, h])), execAll]

/-! ### The obligations -/

/-- Settles O38: the two packet directions undo each other, and the pushes put exactly the encoded bytes into the buffer. -/
theorem parameterPacketRoundTrips : Obligations.ParameterPacketRoundTrips := by
  refine ⟨fun s hv => ?_, fun s hl => ?_⟩
  · obtain ⟨u, run, par, valid⟩ :=
      execAll_copy_decpar (bytesOfParams s.par).length_toList (complete (loadTx (bytesOfParams s.par) s))
    exact ⟨_, u, exec_encpar_of_allValid hv, run, par.trans (paramsOf_bytesOfParams s.par), valid⟩
  · refine ⟨_, (execAll_cons _ (exec_decpar_of_length hl)).trans (execAll_cons _ (exec_encpar_of_allValid rfl)), ?_, rfl⟩
    simpa using bytesOfParams_paramsOf hl

/-- Settles O32: CLRBUF is `complete` of the emptied buffer. -/
theorem clrbufEmptiesTheBuffer : Obligations.ClrbufEmptiesTheBuffer :=
  ⟨by decide, fun _ => rfl⟩

/-- Settles O33: room decides between the two ends. -/
theorem pushbAppendsUntilFull : Obligations.PushbAppendsUntilFull := by
  refine fun s v => ⟨?_, exec_pushb_of_room, exec_pushb_of_full⟩
  rw [encode, pack_eq_or]
  simp

/-- Settles O34: a legal index names one field and one valid bit. -/
theorem setparWritesOneField : Obligations.SetparWritesOneField := by
  refine fun s a x => ⟨?_, fun legal => ?_, fun illegal => ?_⟩
  · exact pack_eq_or 0x12#8 a x
  · obtain ⟨i, field, number⟩ := parIndexOf_of_legal legal
    refine ⟨_, exec_setpar_of_legal field, ?_⟩
    simp [SamePkt, SameTx, parGet_parSet, getLsbD_setParValid, ← number, parNumber_inj]
  · have notLegal : (Instr.setpar a x).wellFormed = false := wellFormed_eq_false_iff.2 ⟨a, .inr (.inr ⟨illegal, x, rfl⟩)⟩
    exact ⟨_, exec_of_not_wellFormed notLegal s, by simp [SamePar]⟩

/-- Settles O35: the fields are the little-endian ranges of the thirteen bytes. -/
theorem decdataDecodesThirteenBytes : Obligations.DecdataDecodesThirteenBytes := by
  refine ⟨by decide, fun s h => ⟨_, exec_decdata_of_wrongLength h, by simp⟩, ?_⟩
  intro s b0 b1 b2 b3 b4 b5 b6 b7 b8 b9 b10 b11 b12 h
  refine ⟨_, exec_decdata_of_length (by simp [h]), ?_⟩
  simp [h, packetOf, byteAt, le16_toNat, le32_toNat]

/-- Settles O36: the four fields are the little-endian pairs of the eight bytes. -/
theorem decparDecodesEightBytes : Obligations.DecparDecodesEightBytes := by
  refine ⟨by decide, fun s h => ⟨_, exec_decpar_of_wrongLength h, by simp⟩, ?_⟩
  intro s b0 b1 b2 b3 b4 b5 b6 b7 h
  refine ⟨_, exec_decpar_of_length (by simp [h]), ?_⟩
  simp [h, paramsOf, byteAt, le16_toNat]

/-- Settles O37: the low byte of a field is its remainder, the high byte its quotient. -/
theorem encparEncodesEveryField : Obligations.EncparEncodesEveryField := by
  refine ⟨by decide, fun s h => ⟨_, exec_encpar_of_allValid h, rfl, rfl, rfl, rfl, rfl, fun j => ?_⟩,
    fun s h => ⟨_, exec_encpar_of_missing h, by simp [SamePar]⟩⟩
  obtain ⟨low, high⟩ := bytesOfParams_getD s.par j
  exact ⟨(congrArg BitVec.toNat low).trans (lowByte_toNat _), (congrArg BitVec.toNat high).trans (highByte_toNat _)⟩

end Sys2Proof.Machine
end

section
/-! PROOFS of the family 42_check_error.md: one equation per operation and outcome, and what a step can leave in the error
registers. -/

namespace Sys2Proof.Machine

/-! ### The checksum of a packet (R201, R203) -/

theorem sum8_toNat (B : List Byte) : (sum8 B).toNat = (B.map BitVec.toNat).sum % 256 := BitVec.toNat_ofNat _ _

section
variable {B : List Byte} {last : Byte}

/-- What the checksum covers is every byte before the checksum byte (R201). -/
theorem coveredBytes_append (h : B.length = 12) : coveredBytes (B ++ [last]) = B := List.take_left' h

theorem byteAt_append_last {n : Nat} (h : B.length = n) : byteAt (B ++ [last]) n = last := by
  simp [byteAt, ← h]

end

/-! ### One equation per operation and outcome -/

section
variable {s : State}

theorem exec_chksum_of_wrongLength (h : s.rxbuf.length ≠ 13) :
    exec .chksum s = .next (raise .formatError (invalidateChk s)) :=
  if_pos h

theorem exec_chksum_of_packet {B : List Byte} {last : Byte} (hB : B.length = 12) (h : s.rxbuf = B ++ [last]) :
    exec .chksum s = .next (complete (loadChk (checksumFn s.cfg.checksum B) (checksumFn s.cfg.checksum B == last) s)) := by
  have thirteen : s.rxbuf.length = packetLength := by simp [h, hB, packetLength]
  have computed : exec .chksum s = .next (complete (loadChk (checksumFn s.cfg.checksum (coveredBytes s.rxbuf))
      (checksumFn s.cfg.checksum (coveredBytes s.rxbuf) == byteAt s.rxbuf 12) s)) := if_neg (not_not.2 thirteen)
  rwa [h, coveredBytes_append hB, byteAt_append_last hB] at computed

theorem exec_errdec_of_packet (h : s.pktV = true) :
    exec .errdec s = .next (complete (loadErr (errField s.pkt.error) (errCodeOf s.pkt.error) s)) :=
  if_pos h

theorem exec_errdec_of_noPacket (h : s.pktV = false) :
    exec .errdec s = .next (raise .illegalOperation (invalidateErr s)) :=
  if_neg (by simp [h])

end

/-! ### What a step can leave in the error registers -/

/-- The extraction never meets a code that maps to `unknown` (R209). -/
theorem errCodeOf_ne_unknown (e : Byte) : errCodeOf e ≠ .unknown := by
  intro unknown
  have number := errorCodeNumber_errCodeOf e
  rw [unknown, errorCodeNumber] at number
  omega

/-- What a step leaves in the error registers without the mapping of a whole byte: what stood there, no value, or the error of an
extracted field (R38, R208, R162). -/
def ErrKeptOrExtracted (s t : State) : Prop := SameErr s t ∨ t.errV = false ∨ ∃ e, t.errc = errCodeOf e

/-- A valid `unknown` is then one that stood there (R209). -/
theorem ErrKeptOrExtracted.unknown_before {s t : State} (h : ErrKeptOrExtracted s t) (valid : t.errV = true)
    (unknown : t.errc = .unknown) : s.errV = true ∧ s.errc = .unknown := by
  obtain ⟨-, sameCode, sameFlag⟩ | dropped | ⟨e, extracted⟩ := h
  · exact ⟨sameFlag ▸ valid, sameCode ▸ unknown⟩
  · simp [dropped] at valid
  · exact absurd (extracted.symm.trans unknown) (errCodeOf_ne_unknown e)

/-- Of the sequencer operations GETERR alone writes the error registers (R162). -/
theorem SequencerEnd.errKeptOrExtracted {i : Instr} {s t : State} (h : SequencerEnd i s t) : ErrKeptOrExtracted s t := by
  by_cases hi : i = .geterr
  · subst hi
    cases h with
    | aborted | failed | exhausted => exact .inr (.inl (by subst t; simp))
    | byteRead => exact .inr (.inr ⟨(nextAnswer s).byte, by subst t; simp [byteReadAt]⟩)
    | illegal | waited | written | ready | again | badBlock | goodBlock => exact .inl (by subst t; simp)
  · exact .inl (h.sameErr hi)

/-- Of the operations without bus transactions only ERRDEC and ERRMAP write the error registers (R208, R212). -/
theorem dataOp_errKeptOrExtracted {i : Instr} {s t : State} (hb : isBusOp i = false) (hm : ∀ c, i ≠ .errmap c)
    (h : exec i s = .next t) : ErrKeptOrExtracted s t := by
  by_cases hi : i = .errdec
  · subst hi
    cases hv : s.pktV
    · cases (exec_errdec_of_noPacket hv).symm.trans h
      exact .inr (.inl (by simp))
    · cases (exec_errdec_of_packet hv).symm.trans h
      exact .inr (.inr ⟨s.pkt.error, by simp⟩)
  · cases dataEnd_of_exec hb h with
    | completed u frame eq | raised u frame _ _ _ eq =>
      exact .inl (by subst t; simpa using frame.err ⟨hi, hm⟩)

theorem exec_errKeptOrExtracted {i : Instr} {s t : State} (hm : ∀ c, i ≠ .errmap c) (h : exec i s = .next t) :
    ErrKeptOrExtracted s t := by
  cases hb : isBusOp i
  · exact dataOp_errKeptOrExtracted hb hm h
  · exact (sequencer_ends i s t hb h).errKeptOrExtracted

/-! ### The obligations -/

/-- Settles O42: every step but ERRMAP's keeps the error registers, drops them or writes an extracted error. -/
theorem onlyErrmapWritesUnknown : Obligations.OnlyErrmapWritesUnknown := by
  refine ⟨fun e => ⟨by omega, errCodeOf_ne_unknown e⟩, fun s => ⟨_, rfl, rfl, rfl⟩, fun s t i h valid unknown => ?_⟩
  refine or_iff_not_imp_left.2 fun notErrmap => ?_
  have kept : ErrKeptOrExtracted s t := exec_errKeptOrExtracted (fun c hc => notErrmap ⟨c, hc⟩) h
  exact kept.unknown_before valid unknown

/-- Settles O39: a packet is its twelve covered bytes and the byte they are compared with. -/
theorem chksumComparesAndReports : Obligations.ChksumComparesAndReports := by
  refine ⟨by decide, fun s h => ⟨_, exec_chksum_of_wrongLength h, by simp⟩, fun s B last hB h => ?_⟩
  refine ⟨checksumFn s.cfg.checksum B, exec_chksum_of_packet hB h, fun hsum => ?_, fun hfree => ?_⟩
  · rw [hsum]; exact sum8_toNat B
  · rw [hfree]; rfl

/-- Settles O40: the field is the one at bit 3, and its error is numbered as it is. -/
theorem errdecDecodesThePacketByte : Obligations.ErrdecDecodesThePacketByte :=
  ⟨by decide,
    fun s hv => ⟨errField s.pkt.error, errCodeOf s.pkt.error, errField_toNat _, errorCodeNumber_errCodeOf _,
      exec_errdec_of_packet hv⟩,
    fun _ hv => ⟨_, exec_errdec_of_noPacket hv, by simp⟩⟩

/-- Settles O41: the whole byte is mapped, and `ERRF` takes its low two bits. -/
theorem errmapMapsTheImmediate : Obligations.ErrmapMapsTheImmediate := by
  refine fun s c => ⟨?_, c.setWidth 2, errMap c, BitVec.toNat_setWidth _ _, errorCodeNumber_errMap c, rfl⟩
  rw [encode, pack_eq_or]
  simp

end Sys2Proof.Machine
end

section
/-! PROOFS of the family 60_exceptions.md: what acceptance writes, that a word waits while `BUSY` is 1, that an operation ends by a
completion alone, and the ground of each result (R234), said once by `EndGround`. -/

namespace Sys2Proof.Machine

/-! ### What the acceptance of a legal word leads to -/

theorem onAccept_eq (i : Instr) (s : State) : onAccept i s = { s with rxbuf := if isFetch i then [] else s.rxbuf } := by
  rcases onAccept_cases i s with ⟨hf, e⟩ | ⟨hf, e⟩ <;> simp [e, hf, clearRx]

theorem accept_of_legal {w : Word} {i : Instr} (h : decodeLegal w = .ok i) (s : State) :
    accept w s = onAccept i (latch w s) := by
  simp [accept, h]

theorem withFetchWord_of_legal {w : Word} {i : Instr} (h : decodeLegal w = .ok i) (s : State) :
    s.withFetchWord 32 w.toNat = onAccept i (latch w (setHostActs [] s)) := by
  have word : BitVec.ofNat 32 (w.toNat % 2 ^ 32) = w := by
    rw [Nat.mod_eq_of_lt w.isLt, BitVec.ofNat_toNat, BitVec.setWidth_eq]
  simp only [State.withFetchWord, placeWord, word, h]

theorem acceptNext_of_nothing {s : State} (h : s.hostOps = []) : acceptNext s = s := by
  simp [acceptNext, h]

/-! ### While an operation is in flight -/

section
variable {i : Instr} {s t : State}

/-- With `BUSY = 1` a step of the block takes the operation in flight on or ends it (R130, R229). -/
theorem blockStep_goesOn_or_completes (hb : s.busy = true) (h : blockStep s = .next t) : GoesOn s t ∨ Completes s t := by
  rcases blockStep_cases h with ⟨i, -, -, he⟩ | ⟨r, -, -, rfl⟩ | ⟨idle, -⟩
  · exact exec_goesOn_or_completes he
  · exact .inr (completes_raise (by simp) rfl)
  · simp [hb] at idle

/-- Only an idle block takes a word (R220, R223). -/
theorem blockStep_hostOps (hb : s.busy = true) (h : blockStep s = .next t) : t.hostOps = s.hostOps := by
  rcases blockStep_cases h with ⟨i, -, -, he⟩ | ⟨r, -, -, rfl⟩ | ⟨idle, -⟩
  · obtain ⟨-, -, -, hops, -⟩ := exec_sameSurroundings he
    exact hops
  · simp
  · simp [hb] at idle

/-- None of the host's actions takes a word back, a reset included (R264; log 17). -/
theorem hostStep_hostOps (act : HostAct) (s : State) : (hostStep act s).hostOps = s.hostOps := by
  by_cases reset : ∃ p, act = .reset p
  · obtain ⟨p, rfl⟩ := reset
    rfl
  · obtain ⟨-, -, hops⟩ := hostStep_kept (fun p hp => reset ⟨p, hp⟩) s
    exact hops

/-- Without a reset, `BUSY` falls by a completion (R225, R226). -/
theorem step_completes (hb : s.busy = true) (h : step s = .next t) (ht : t.busy = false)
    (noReset : ∀ p rest, s.hostActs ≠ .reset p :: rest) : Completes s t := by
  rcases step_cases h with ⟨acts, -, hblock⟩ | ⟨act, rest, ha, -, rfl⟩
  · rcases blockStep_goesOn_or_completes (by simpa using hb) hblock with hg | hc
    · simp [hg.busy, hb] at ht
    · exact { hc with }
  · obtain ⟨hbusy, -⟩ := hostStep_kept (fun p hp => noReset p rest (hp ▸ ha)) (clearDone (setHostActs rest s))
    simp [hbusy, hb] at ht

/-! ### The ground of a result -/

/-- What has to hold of operation `i` in state `s` for a step of it to end with a result (R234); OK asks for nothing. -/
def EndGround (i : Instr) (s : State) : ResultCode → Prop
  | .ok => True
  | .protocolError => ∃ a n, i = .fetch a n ∧ s.ustep.item = 4 ∧ (nextAnswer s).failure = none ∧
      (answeredBlock (nextAnswer s)).length ≠ n.toNat
  | .formatError => ((i = .decdata ∨ i = .chksum) ∧ s.rxbuf.length ≠ 13) ∨ (i = .decpar ∧ s.rxbuf.length ≠ 8)
  | .operationTimedOut => isBusOp i = true ∧
      (s.abortPend = true ∨ (isPollItem i s.ustep.item = true ∧ s.ustep.sub = .read ∧ s.cfg.maxPoll ≠ 0#16))
  | .transportError => ∃ k c, busKindAt i s.ustep = some k ∧ (nextAnswer s).failure = some c
  | .illegalOperation =>
      i.wellFormed = false ∨ ((∃ v, i = .pushb v) ∧ 255 ≤ s.rxbuf.length) ∨ (i = .encpar ∧ s.parV ≠ 0b1111#4) ∨
        (i = .errdec ∧ s.pktV = false)

theorem SequencerEnd.endGround (h : SequencerEnd i s t) (hb : isBusOp i = true) (hs : s.busy = true) (ht : t.busy = false) :
    EndGround i s t.result := by
  cases h with
  | illegal wf e => subst t; exact .inl wf
  | aborted _ _ abort e => subst t; exact ⟨hb, .inl abort⟩
  | failed _ _ _ k c kind failure e => subst t; exact ⟨k, c, kind, failure⟩
  | exhausted _ poll sub _ _ _ bound e =>
    obtain ⟨bounded, -⟩ := (pollExhausted_iff _ _).1 bound
    subst t; exact ⟨hb, .inr ⟨poll, sub, bounded⟩⟩
  | badBlock _ n op item _ failure length e =>
    obtain ⟨a, rfl⟩ := op
    subst t; exact ⟨a, n, rfl, item, failure, length⟩
  | waited | goodBlock => subst t; trivial
  | byteRead => subst t; simp [EndGround]
  | written | again => subst t; simp [hs] at ht
  | ready _ poll _ _ _ _ e =>
    rcases readyAt_cases poll _ with ⟨-, hr⟩ | ⟨-, -, hr⟩ | ⟨-, hr⟩ <;> rw [hr] at e <;> subst t
    · simp [hs] at ht
    · trivial
    · trivial

theorem dataOp_endGround (hb : isBusOp i = false) (h : exec i s = .next t) : EndGround i s t.result := by
  cases i with
  | sendcmd | rdcreg | isrdy | poll | rstch | fetch | geterr => simp [isBusOp] at hb
  | clrbuf | errmap => cases h; trivial
  | pushb v =>
    simp only [exec, execPushb] at h
    split at h <;> cases h
    next full => exact .inr (.inl ⟨⟨v, rfl⟩, full⟩)
    next => trivial
  | setpar a x =>
    cases wf : (Instr.setpar a x).wellFormed with
    | false => cases (exec_of_not_wellFormed wf s).symm.trans h; exact .inl wf
    | true =>
      obtain ⟨j, field, -⟩ := parIndexOf_of_legal (a := a) (by simp [Instr.wellFormed] at wf; omega)
      cases (exec_setpar_of_legal field).symm.trans h
      trivial
  | decdata =>
    by_cases length : s.rxbuf.length = 13
    · cases (exec_decdata_of_length length).symm.trans h; trivial
    · cases (exec_decdata_of_wrongLength length).symm.trans h; exact .inl ⟨.inl rfl, length⟩
  | decpar =>
    by_cases length : s.rxbuf.length = 8
    · cases (exec_decpar_of_length length).symm.trans h; trivial
    · cases (exec_decpar_of_wrongLength length).symm.trans h; exact .inr ⟨rfl, length⟩
  | encpar =>
    by_cases valid : s.parV = 0b1111#4
    · cases (exec_encpar_of_allValid valid).symm.trans h; trivial
    · cases (exec_encpar_of_missing valid).symm.trans h; exact .inr (.inr (.inl ⟨rfl, valid⟩))
  | chksum =>
    simp only [exec, execChksum] at h
    split at h <;> cases h
    next length => exact .inl ⟨.inr rfl, length⟩
    next => trivial
  | errdec =>
    cases packet : s.pktV with
    | true => cases (exec_errdec_of_packet packet).symm.trans h; trivial
    | false => cases (exec_errdec_of_noPacket packet).symm.trans h; exact .inr (.inr (.inr ⟨rfl, packet⟩))

/-- An operation that ends has a ground for its result (R234). -/
theorem exec_endGround (h : exec i s = .next t) (hs : s.busy = true) (ht : t.busy = false) : EndGround i s t.result := by
  cases hb : isBusOp i with
  | true => exact (sequencer_ends i s t hb h).endGround hb hs ht
  | false => exact dataOp_endGround hb h

end

/-! ### The obligations -/

/-- Settles O14: the clause of each result is its ground. -/
theorem operationResults : Obligations.OperationResults := by
  intro s t i hs h ht
  have ground : ∀ r, t.result = r → EndGround i s r := fun r hr => hr ▸ exec_endGround h hs ht
  exact ⟨ground _, ground _, ground _, ground _, ground _⟩

/-- Settles O10: neither the operation in flight nor the host between two steps touches the presented words. -/
theorem busyAcceptsNoWord : Obligations.BusyAcceptsNoWord := by
  intro s t hb h
  rcases step_cases h with ⟨acts, -, hblock⟩ | ⟨act, rest, -, -, rfl⟩
  · simpa using blockStep_hostOps (by simpa using hb) hblock
  · simp [hostStep_hostOps]

/-- Settles O13: without a reset the fall is a completion, whose outcome is OK or an error. -/
theorem fallOfBusyIsACompletion : Obligations.FallOfBusyIsACompletion := by
  intro s t hb h ht noReset
  have hc := step_completes hb h ht noReset
  refine ⟨hc.abortPend, hc.done, fun ok => ?_, fun error => ?_, hc.tfcode⟩
  · rcases hc.outcome with ⟨-, kept⟩ | ⟨error, -⟩
    · exact kept
    · exact absurd ok error
  · rcases hc.outcome with ⟨ok, -⟩ | ⟨-, ended⟩
    · exact absurd ok error
    · exact ended

/-- Settles O7: the placed word is in flight, nothing of the host is due, and `OPREG` decodes to its operation. -/
theorem placedWordRunsNext : Obligations.PlacedWordRunsNext := by
  intro s w i h
  rw [withFetchWord_of_legal h, onAccept_eq]
  obtain ⟨quiet, -⟩ := stepRunsTheDecodedOperation
    { latch w (setHostActs [] s) with rxbuf := if isFetch i then [] else s.rxbuf } i rfl (decode_of_decodeLegal h)
  exact quiet rfl

/-- Settles O8: the idle block takes the word and latches it. -/
theorem acceptanceOfALegalWord : Obligations.AcceptanceOfALegalWord := by
  intro s w i rest acts hm hb ho wf he
  rw [step_of_presented hm hb ho, accept_of_legal (decodeLegal_eq_ok_iff.2 ⟨wf, he⟩), onAccept_eq]
  rfl

/-- Settles O11: the idle block finds no word to accept. -/
theorem idleBlockWaits : Obligations.IdleBlockWaits := by
  intro s acts hm hb ho
  rw [step_of_blockMoves hm, blockStep_of_idle (by simpa using hb), acceptNext_of_nothing (by simpa using ho)]
  rfl

end Sys2Proof.Machine
end

section
/-! PROOFS of the family 70_reset_and_hazards.md: under a bounded poll every step of the block uses up some of `stepsLeft` (R274).
The lemmas say what `stepsLeft` is made of, the item under way and the items after it, so that its fall is argued once per end of
a step and not once per operation. -/

namespace Sys2Proof.Machine

/-! ### What `stepsLeft` is made of -/

/-- What the item under way adds to `stepsLeft`: the attempts left of a poll, one step of any other item (R131, R140). -/
def itemLeft (i : Instr) (s : State) : Nat := if isPollItem i s.ustep.item then pollLeft s else 1

section
variable {i : Instr} {s t : State}

theorem pollLeft_le (s : State) : pollLeft s ≤ 2 * s.cfg.maxPoll.toNat := by
  unfold pollLeft; split <;> omega

/-- A bounded poll under way has attempts left, so it has transactions left (R140). -/
theorem pollLeft_pos (hf : FlightOk i s) (hp : isPollItem i s.ustep.item = true) (hm : s.cfg.maxPoll ≠ 0#16) :
    0 < pollLeft s := by
  have bounded := BitVec.toNat_pos_of_ne_zero hm
  have budget : s.ustep.sub ≠ .opening → s.pollcnt.toNat < s.cfg.maxPoll.toNat := fun ho => hf.budget hp ho hm
  unfold pollLeft
  cases hs : s.ustep.sub with
  | opening => simpa using bounded
  | write | read => have := budget (by simp [hs]); simp only; omega

theorem itemLeft_pos (hf : FlightOk i s) (hm : s.cfg.maxPoll ≠ 0#16) : 0 < itemLeft i s := by
  unfold itemLeft
  split
  next hp => exact pollLeft_pos hf hp hm
  next => exact Nat.one_pos

theorem itemLeft_le_stepsLeft (h : s.ustep.item < itemCount i) : itemLeft i s ≤ stepsLeft i s := by
  cases i with
  | sendcmd | rdcreg | isrdy | geterr =>
    simp only [itemCount] at h
    simp only [itemLeft, isPollItem, stepsLeft, Bool.false_eq_true, if_false]
    omega
  | poll =>
    have first : s.ustep.item = 0 := by simpa [itemCount] using h
    simp [itemLeft, isPollItem, stepsLeft, first]
  | rstch | fetch =>
    simp only [itemCount] at h
    simp only [itemLeft, isPollItem, stepsLeft]
    interval_cases s.ustep.item <;> simp <;> omega
  | clrbuf | pushb | setpar | decdata | decpar | encpar | chksum | errdec | errmap => simp [itemLeft, isPollItem, stepsLeft]

/-- What the host does next has no part in it. -/
@[simp] theorem stepsLeft_clearDone_setHostActs (i : Instr) (acts : List HostAct) (s : State) :
    stepsLeft i (clearDone (setHostActs acts s)) = stepsLeft i s := rfl

/-- No operation has more steps before it than a FETCH at its first item (R274). -/
theorem stepsLeft_le (i : Instr) (s : State) : stepsLeft i s ≤ 3 + 4 * s.cfg.maxPoll.toNat := by
  have := pollLeft_le s
  cases i with
  | sendcmd | rdcreg | isrdy | geterr | poll => simp only [stepsLeft]; omega
  | rstch | fetch => simp only [stepsLeft]; split <;> omega
  | clrbuf | pushb | setpar | decdata | decpar | encpar | chksum | errdec | errmap => simp only [stepsLeft]; omega

/-- From one item of a template to the opening of the next, `stepsLeft` falls by what was left of the item (R131). -/
theorem stepsLeft_of_nextItem (hn : s.ustep.item + 1 < itemCount i) (hu : t.ustep = ⟨s.ustep.item + 1, .opening⟩)
    (hc : t.cfg = s.cfg) : stepsLeft i s = itemLeft i s + stepsLeft i t := by
  cases i with
  | sendcmd | rdcreg | isrdy | geterr =>
    simp_all [itemCount, itemLeft, isPollItem, stepsLeft]
  | rstch | fetch =>
    replace hn := Nat.lt_sub_of_add_lt hn
    simp only [itemCount, Nat.reduceSub] at hn
    simp only [itemLeft, isPollItem, stepsLeft, pollLeft, hu, hc]
    interval_cases s.ustep.item <;> simp <;> omega
  | poll | clrbuf | pushb | setpar | decdata | decpar | encpar | chksum | errdec | errmap => simp [itemCount] at hn

/-- Inside a poll item `stepsLeft` falls as the attempts left fall (R140). -/
theorem stepsLeft_lt_of_pollLeft_lt (hp : isPollItem i s.ustep.item = true) (hu : t.ustep.item = s.ustep.item)
    (hc : t.cfg = s.cfg) (h : pollLeft t < pollLeft s) : stepsLeft i t < stepsLeft i s := by
  cases i with
  | poll => exact h
  | rstch => simp_all [isPollItem, stepsLeft]
  | fetch =>
    rcases (by simpa [isPollItem] using hp : s.ustep.item = 1 ∨ s.ustep.item = 3) with hi | hi <;>
      simp [stepsLeft, hu, hc, hi, h]
  | _ => simp [isPollItem] at hp

/-! ### A step of the operation in flight -/

/-- A step of a sequencer operation that goes on takes it to the next item, or further inside a poll (R130, R140). -/
theorem SequencerEnd.stepsLeft_lt (h : SequencerEnd i s t) (hf : FlightOk i s) (hm : s.cfg.maxPoll ≠ 0#16)
    (hb : t.busy = true) : stepsLeft i t < stepsLeft i s := by
  obtain ⟨hc, -⟩ := h.sameSurroundings
  have nextItem : s.ustep.item + 1 < itemCount i → t.ustep = ⟨s.ustep.item + 1, .opening⟩ → stepsLeft i t < stepsLeft i s :=
    fun hn hu => by
      have := stepsLeft_of_nextItem hn hu hc
      have := itemLeft_pos hf hm
      omega
  cases h with
  | illegal | aborted | failed | waited | byteRead | exhausted | badBlock | goodBlock => subst t; simp at hb
  | written _ _ _ kind _ k e =>
    cases hp : isPollItem i s.ustep.item with
    | true =>
      rw [writtenAt_of_pollItem hp] at e
      refine stepsLeft_lt_of_pollLeft_lt hp (by simp [e]) hc ?_
      have := pollLeft_pos hf hp hm
      cases hs : s.ustep.sub with
      | opening | write => simp_all [pollLeft, openedAt_pollcnt]
      | read => simp [busKindAt_of_pollItem hp, hs, attemptKind] at kind
    | false =>
      obtain ⟨hu, -⟩ := writtenAt_of_not_pollItem (s := emit (.regWrite s.devAddr s.cfg.cmdReg (commandByte s.cfg k))
        (takeAnswer (openedAt i s))) hp (by simpa using hf.phase)
      exact nextItem (succ_lt_itemCount_of_write kind hp) (e ▸ hu)
  | ready _ poll _ _ _ _ e =>
    rcases readyAt_cases poll _ with ⟨hfetch, hr⟩ | ⟨-, -, hr⟩ | ⟨-, hr⟩ <;> rw [hr] at e
    · exact nextItem (succ_lt_itemCount_of_fetchPoll hfetch poll) (by simp [e])
    · simp [e] at hb
    · simp [e] at hb
  | again _ poll sub _ _ _ bound e =>
    refine stepsLeft_lt_of_pollLeft_lt poll (by simp [e]) hc ?_
    have budget := hf.budget poll (by simp [sub]) hm
    have counted := bumpCount_toNat s.pollcnt (by omega)
    have hsub : t.ustep.sub = .write := by simp [e]
    have hcount : t.pollcnt = bumpCount s.pollcnt := by simp [e]
    simp only [pollLeft, sub, hsub, hcount, hc, counted]
    omega

theorem exec_stepsLeft_lt (h : exec i s = .next t) (hf : FlightOk i s) (hm : s.cfg.maxPoll ≠ 0#16)
    (hb : t.busy = true) : stepsLeft i t < stepsLeft i s := by
  cases hop : isBusOp i with
  | true => exact (sequencer_ends i s t hop h).stepsLeft_lt hf hm hb
  | false => simp [(dataEnd_of_exec hop h).completes.busy] at hb

/-- The operation in flight is the one `OPREG` decodes to, at a position of its own. -/
theorem State.Inv.flightOk_of_decode (hs : s.Inv) (hb : s.busy = true) (hd : decode s.opreg = .ok i) : FlightOk i s := by
  obtain ⟨j, hlegal, hf⟩ := hs.flight hb
  cases hd.symm.trans (decode_of_decodeLegal hlegal)
  exact hf

end

/-! ### The obligations -/

/-- Settles O53: the step is one of the operation in flight, whose position and attempts the invariant gives. -/
theorem stepsLeftFall : Obligations.StepsLeftFall := by
  intro s t i acts hs hb hd hm bounded h
  rw [step_of_blockMoves hm, blockStep_of_busy (by simpa using hb) (by simpa using hd)] at h
  have flight : FlightOk i (clearDone (setHostActs acts s)) :=
    (clearDone_setHostActs_inv hs acts).flightOk_of_decode (by simpa using hb) (by simpa using hd)
  cases ht : t.busy with
  | false => exact .inl rfl
  | true =>
    obtain ⟨-, -, hopreg, -⟩ := exec_sameSurroundings h
    exact .inr ⟨by simpa using hopreg, by simpa using exec_stepsLeft_lt h flight (by simpa using bounded) ht⟩

/-- With a quiet host the operation in flight ends within any number of steps that `stepsLeft` does not exceed, a step adding at most
one event (R130, R274). -/
theorem run_ends_within {i : Instr} (n : Nat) {s : State} (hs : s.Inv) (hb : s.busy = true) (hd : decode s.opreg = .ok i)
    (quiet : s.hostActs = []) (bounded : s.cfg.maxPoll ≠ 0#16) (hn : stepsLeft i s ≤ n) :
    ∃ k t, k ≤ n ∧ Host.Core.run core k s = .next t ∧ t.busy = false ∧ t.trace.length ≤ s.trace.length + n := by
  induction n generalizing s with
  | zero =>
    have flight := hs.flightOk_of_decode hb hd
    have := itemLeft_pos flight bounded
    have := itemLeft_le_stepsLeft flight.item
    omega
  | succ n ih =>
    obtain ⟨t, ht⟩ := machineNeverStops s hs
    have hlen : t.trace.length ≤ s.trace.length + 1 := by
      rcases oneTransactionAStep s t ht with e | ⟨_, e⟩ | ⟨-, e⟩ <;> simp [e]
    cases htb : t.busy with
    | false => exact ⟨1, t, by omega, run_succ (M := core) ht 0, htb, by omega⟩
    | true =>
      obtain ⟨runs, -⟩ := stepRunsTheDecodedOperation s i hb hd
      obtain ⟨hcfg, -, -, -, hacts, -⟩ := exec_sameSurroundings ((runs quiet).symm.trans ht)
      obtain ended | ⟨hopreg, hlt⟩ := stepsLeftFall s t i [] hs hb hd (.inl ⟨quiet, rfl⟩) bounded ht
      · simp [ended] at htb
      obtain ⟨k, u, hk, hrun, hidle, hu⟩ := ih (stepKeepsTheInvariant s t hs ht) htb (hopreg ▸ hd)
        (by simpa [quiet] using hacts) (by simpa [hcfg] using bounded) (by omega)
      exact ⟨k + 1, u, by omega, (run_succ (M := core) ht k).trans hrun, hidle, by omega⟩

/-- Settles O52: the operation in flight ends within its `stepsLeft`, which is at most that of a FETCH at its first item. -/
theorem boundedOperationsEnd : Obligations.BoundedOperationsEnd := by
  intro s hs hb quiet bounded
  obtain ⟨i, hlegal, -⟩ := hs.flight hb
  exact run_ends_within _ hs hb (decode_of_decodeLegal hlegal) quiet bounded (stepsLeft_le i s)

end Sys2Proof.Machine
end
